-- ==== Sys2Proof/Word.lean ====
section
/-! DEFINITION. The widths of the block: a byte, the 32-bit operation word and the 32-bit time input
(00_scope.md R6, R7; 30_encoding.md R76). -/

namespace Sys2Proof

/-- A byte: every frame field, buffer element and 8-bit register (R7). -/
abbrev Byte := BitVec 8

/-- A 32-bit word: the operation word `OPW`, `RES.data` and the status registers (R76, R80, R22). -/
abbrev Word := BitVec 32

/-- A value of the time input `now`, `W_T = 32` bits, in ticks (R6, R24). -/
abbrev Time := BitVec 32

end Sys2Proof
end

