-- ==== Sys2Proof/Syntax.lean ====
section
/-! DEFINITION. What passes through the operation port: the operations (one constructor per row of
spec/opcode_table.json) and the result record. 30_encoding.md R76, R77, R80, R81, R82. -/

namespace Sys2Proof

/-- The operations of the operation port, with the operands each one reads (R76, R77). An operand is a bit vector
of its field's width, so no operand can be out of its field; fields an operation ignores (R78) are no operands. -/
inductive Instr where
  /-- `NOP`, code 0x0 (45_system.md R170). -/
  | nop
  /-- `RXFEED byte`, code 0x1 (42_rx_parser.md R119). -/
  | rxfeed (byte : Byte)
  /-- `RXPOLL`, code 0x2 (42_rx_parser.md R121). -/
  | rxpoll
  /-- `TXPWR idx, byte`, code 0x3 (43_buffer_access.md R140). -/
  | txpwr (idx : Byte) (byte : Byte)
  /-- `TXENC len, cmd`, code 0x4 (41_tx_encoder.md R101). -/
  | txenc (len : Byte) (cmd : Byte)
  /-- `TXFRD idx`, code 0x5 (43_buffer_access.md R142). -/
  | txfrd (idx : Byte)
  /-- `RXFRD idx`, code 0x6 (43_buffer_access.md R143). -/
  | rxfrd (idx : Byte)
  /-- `CSRRD idx`, code 0x7 (43_buffer_access.md R144). -/
  | csrrd (idx : Byte)
  /-- `RLSET ch, val`, code 0x8 (44_ramp_limiter.md R151). -/
  | rlset (ch : BitVec 4) (val : BitVec 16)
  /-- `RLADV`, code 0x9 (44_ramp_limiter.md R154). -/
  | rladv
  /-- `RLRD ch`, code 0xA (44_ramp_limiter.md R156). -/
  | rlrd (ch : BitVec 4)
  /-- `ESTOP`, code 0xB (44_ramp_limiter.md R157). -/
  | estop
  /-- `ESTOPCLR`, code 0xC (44_ramp_limiter.md R158). -/
  | estopclr
  /-- The reserved code 0xD (30_encoding.md R79). -/
  | reservedD
  /-- The reserved code 0xE (30_encoding.md R79). -/
  | reservedE
  /-- `SRESET`, code 0xF (45_system.md R172). -/
  | sreset
  deriving DecidableEq, Repr

/-- The status field of a result (R81). `INCOMPLETE` and `DONE` are two names of the one code 0. -/
inductive Status where
  /-- Code 0: `DONE`, and `INCOMPLETE` for `RXFEED` and `RXPOLL`. -/
  | done
  /-- Code 1: a valid frame was completed and latched. -/
  | complete
  /-- Code 2: a frame in flight was discarded. -/
  | invalid
  /-- Code 3: the operation was not performed and changed no state. -/
  | refused
  deriving DecidableEq, Repr

/-- `INCOMPLETE`, the name code 0 has for `RXFEED` and `RXPOLL` (R81). -/
abbrev Status.incomplete : Status := .done

/-- The reason field of a result (R82). -/
inductive Reason where
  /-- Code 0: nothing to report. -/
  | none
  /-- Code 1: the inactivity timeout discarded a partial frame. -/
  | timeout
  /-- Code 2: a byte arrived with `rxbuf` full and the frame not complete. -/
  | overflow
  /-- Code 3: the byte at the expected END offset was not `END`. -/
  | badEnd
  /-- Code 4: the CHECKSUM byte differed from the digest. -/
  | checksum
  /-- Code 8: reserved operation code. -/
  | illegalOp
  /-- Code 9: index out of range. -/
  | badIndex
  /-- Code 10: requested payload length exceeds `N_MAX`. -/
  | badLength
  /-- Code 11: `ch >= N_CH`. -/
  | badChannel
  deriving DecidableEq, Repr

/-- The result record `RES` (R80). -/
structure Res where
  st : Status
  reason : Reason
  data : Word
  deriving DecidableEq, Repr

end Sys2Proof
end

