-- ==== Sys2Proof/Config.lean ====
section
/-! DEFINITION. The implementation parameters of an instance (00_scope.md R6) and the one function the spec leaves
open, an uninterpreted digest. Log entries 4, 8, 11. -/

namespace Sys2Proof

/-- A frame digest this text says nothing about: it has no body, so no proof knows a value of it. It stands for
every digest that is none of the three the spec names (40_checksum_digest.md R92); the argument tells several such
digests apart. Log entry 8. -/
opaque Config.otherDigest : Nat → List Byte → Byte

/-- Which function the parameter `DIGEST` is (R90 to R94). -/
inductive DigestSel where
  /-- `CRC8_07`, the reference instance (R93). -/
  | crc8
  /-- `XOR8` (R94). -/
  | xor8
  /-- `SUM8` (R94). -/
  | sum8
  /-- Any other function: `Config.otherDigest k` (R92). -/
  | other (k : Nat)
  deriving DecidableEq, Repr

/-- `RAMP_UP[ch]` and `RAMP_DOWN[ch]`, percent per cycle (R6, R19). -/
structure Ramp where
  up : Nat
  down : Nat
  deriving DecidableEq, Repr

/-- The host parameters of R6 and R193, which no rule of the block reads. -/
structure HostParams where
  /-- `CMD_PING`, the liveness check. -/
  cmdPing : Byte
  /-- `CMD_UPDATE`, the telemetry update. -/
  cmdUpdate : Byte
  /-- `CMD_ACK`, acknowledge. -/
  cmdAck : Byte
  /-- `CMD_NAK`, negative acknowledge. -/
  cmdNak : Byte
  /-- `RX_BURST_MAX`, most bytes the host's loop feeds per invocation. -/
  rxBurstMax : Nat
  /-- `NAK_ON_FRAMING`, the reasons of discards, other than `CHECKSUM`, that the host answers (R193). -/
  nakOnFraming : List Reason
  deriving DecidableEq, Repr

/-- The parameters of an instance, fixed when it is built (R6, R19). -/
structure Config where
  /-- `START`, the start sentinel. -/
  start : Byte
  /-- `END`, the end sentinel. -/
  endByte : Byte
  /-- `N_MAX`, the largest payload length. -/
  nMax : Nat
  /-- `DIGEST`. -/
  digestSel : DigestSel
  /-- `T_TIMEOUT`, ticks. -/
  tTimeout : Nat
  /-- `RAMP_UP` and `RAMP_DOWN`, one entry per channel. -/
  ramps : List Ramp
  /-- The host's parameters. -/
  host : HostParams
  deriving DecidableEq, Repr

/-- `OVERHEAD`: START, COMMAND, LENGTH, CHECKSUM, END (R6, R66). -/
def Config.overhead : Nat := 5

/-- `MAX_FRAME = N_MAX + 5`, the capacity of `rxbuf` and `txf` (R6). -/
def Config.maxFrame (c : Config) : Nat := c.nMax + Config.overhead

/-- `N_CH`, the number of actuator channels (R6). -/
def Config.nCh (c : Config) : Nat := c.ramps.length

/-- `SAFE`, the safe actuator value (R6). -/
def Config.safe : Byte := 0

/-- The reference instance (R6, last column; `NAK_ON_FRAMING` as R193 recommends). -/
def Config.reference : Config where
  start := 0x02
  endByte := 0x03
  nMax := 16
  digestSel := .crc8
  tTimeout := 100
  ramps := [⟨2, 1⟩, ⟨5, 5⟩, ⟨10, 10⟩]
  host :=
    { cmdPing := 0x50, cmdUpdate := 0x55, cmdAck := 0x06, cmdNak := 0x15,
      rxBurstMax := 8, nakOnFraming := [.badEnd] }

end Sys2Proof
end

