-- ==== Sys2Proof/WellFormed.lean ====
section
/-! DEFINITION. What a well-formed instance and a well-formed operation are: the constraint column of 00_scope.md R6,
and the codes a host may issue (45_system.md R173). -/

namespace Sys2Proof

/-- `START != END` (R6, R61). -/
def Config.sentinelsDiffer (c : Config) : Bool := c.start != c.endByte

/-- `8 <= N_MAX <= 250` (R6). -/
def Config.nMaxInRange (c : Config) : Bool := 8 ≤ c.nMax && c.nMax ≤ 250

/-- `1 <= T_TIMEOUT < 2^31` (R6). -/
def Config.timeoutInRange (c : Config) : Bool := 1 ≤ c.tTimeout && c.tTimeout < 2 ^ 31

/-- `1 <= N_CH <= 16` (R6). -/
def Config.nChInRange (c : Config) : Bool := 1 ≤ c.nCh && c.nCh ≤ 16

/-- Every ramp rate is 1 to 100 (R6). -/
def Config.rampsInRange (c : Config) : Bool :=
  c.ramps.all fun r => 1 ≤ r.up && r.up ≤ 100 && 1 ≤ r.down && r.down ≤ 100

/-- `RAMP_DOWN[ch] < RAMP_UP[ch]` for at least one channel (R6, R161). Log entry 11. -/
def Config.someChannelAsymmetric (c : Config) : Bool := c.ramps.any fun r => r.down < r.up

/-- The four command codes are distinct and none is a sentinel (R6, R61). -/
def Config.commandsLegal (c : Config) : Bool :=
  let cmds := [c.host.cmdPing, c.host.cmdUpdate, c.host.cmdAck, c.host.cmdNak]
  decide cmds.Nodup && cmds.all fun x => x != c.start && x != c.endByte

/-- `RX_BURST_MAX >= 1` (R6). -/
def Config.burstLegal (c : Config) : Bool := 1 ≤ c.host.rxBurstMax

/-- `NAK_ON_FRAMING` is a set of reasons of framing errors (R182, R193). -/
def Config.nakReasonsLegal (c : Config) : Bool :=
  decide c.host.nakOnFraming.Nodup &&
    c.host.nakOnFraming.all fun r => r == .timeout || r == .overflow || r == .badEnd

/-- Every check on the parameters that a machine can decide (R6, constraint column). The two properties of
`DIGEST` (R91) are `Config.Legal`'s, in Safety.lean. -/
def Config.wf (c : Config) : Bool :=
  c.sentinelsDiffer && c.nMaxInRange && c.timeoutInRange && c.nChInRange && c.rampsInRange
    && c.someChannelAsymmetric && c.commandsLegal && c.burstLegal && c.nakReasonsLegal

/-- A well-formed operation: one a host may issue, that is, any but the two reserved codes ("a host must not issue
them", R173). The block's behaviour is defined for the reserved codes too. Every operand is in its field by its type. -/
def Instr.wf : Instr → Bool
  | .nop => true
  | .rxfeed _ => true
  | .rxpoll => true
  | .txpwr _ _ => true
  | .txenc _ _ => true
  | .txfrd _ => true
  | .rxfrd _ => true
  | .csrrd _ => true
  | .rlset _ _ => true
  | .rladv => true
  | .rlrd _ => true
  | .estop => true
  | .estopclr => true
  | .reservedD => false
  | .reservedE => false
  | .sreset => true

end Sys2Proof
end

