-- ==== Sys2Proof/Decode.lean ====
section
/-! DEFINITION. The operation word: its fields (30_encoding.md R76), the decoder (R77, R78), the `match` and `mask`
columns of R77, and the encoder. -/

namespace Sys2Proof

/-- `code = OPW[31:28]` (R76). -/
def opwCode (w : Word) : BitVec 4 := w.extractLsb' 28 4

/-- `ch = OPW[27:24]` (R76). -/
def opwCh (w : Word) : BitVec 4 := w.extractLsb' 24 4

/-- `idx = OPW[23:16]` (R76). -/
def opwIdx (w : Word) : Byte := w.extractLsb' 16 8

/-- `val = OPW[15:0]` (R76). -/
def opwVal (w : Word) : BitVec 16 := w.extractLsb' 0 16

/-- `byte = val[7:0] = OPW[7:0]` (R76). -/
def opwByte (w : Word) : Byte := w.extractLsb' 0 8

/-- Why a word is not decoded. -/
inductive DecodeError where
  /-- No row of R77 has this code. No 4-bit code reaches it: the sixteen rows cover all words (R77). -/
  | noRow (code : Nat)
  deriving DecidableEq, Repr

/-- The operation a word selects: by `code` alone, then only the fields R76 lists for that operation (R77, R78). -/
def decode (w : Word) : Except DecodeError Instr :=
  match (opwCode w).toNat with
  | 0x0 => .ok .nop
  | 0x1 => .ok (.rxfeed (opwByte w))
  | 0x2 => .ok .rxpoll
  | 0x3 => .ok (.txpwr (opwIdx w) (opwByte w))
  | 0x4 => .ok (.txenc (opwIdx w) (opwByte w))
  | 0x5 => .ok (.txfrd (opwIdx w))
  | 0x6 => .ok (.rxfrd (opwIdx w))
  | 0x7 => .ok (.csrrd (opwIdx w))
  | 0x8 => .ok (.rlset (opwCh w) (opwVal w))
  | 0x9 => .ok .rladv
  | 0xA => .ok (.rlrd (opwCh w))
  | 0xB => .ok .estop
  | 0xC => .ok .estopclr
  | 0xD => .ok .reservedD
  | 0xE => .ok .reservedE
  | 0xF => .ok .sreset
  | n => .error (.noRow n)

/-- One row of R77: the mnemonic of spec/opcode_table.json and the `match` and `mask` columns. -/
structure OpcodeRow where
  mnemonic : String
  pattern : Word
  mask : Word
  deriving DecidableEq, Repr

/-- The rows of R77, in the table's order. -/
def opcodeRows : List OpcodeRow :=
  [⟨"NOP", 0x00000000, 0xF0000000⟩, ⟨"RXFEED", 0x10000000, 0xF0000000⟩,
   ⟨"RXPOLL", 0x20000000, 0xF0000000⟩, ⟨"TXPWR", 0x30000000, 0xF0000000⟩,
   ⟨"TXENC", 0x40000000, 0xF0000000⟩, ⟨"TXFRD", 0x50000000, 0xF0000000⟩,
   ⟨"RXFRD", 0x60000000, 0xF0000000⟩, ⟨"CSRRD", 0x70000000, 0xF0000000⟩,
   ⟨"RLSET", 0x80000000, 0xF0000000⟩, ⟨"RLADV", 0x90000000, 0xF0000000⟩,
   ⟨"RLRD", 0xA0000000, 0xF0000000⟩, ⟨"ESTOP", 0xB0000000, 0xF0000000⟩,
   ⟨"ESTOPCLR", 0xC0000000, 0xF0000000⟩, ⟨"RESERVED_D", 0xD0000000, 0xF0000000⟩,
   ⟨"RESERVED_E", 0xE0000000, 0xF0000000⟩, ⟨"SRESET", 0xF0000000, 0xF0000000⟩]

/-- The mnemonic of an operation, as spec/opcode_table.json spells it (R77). -/
def Instr.mnemonic : Instr → String
  | .nop => "NOP"
  | .rxfeed _ => "RXFEED"
  | .rxpoll => "RXPOLL"
  | .txpwr _ _ => "TXPWR"
  | .txenc _ _ => "TXENC"
  | .txfrd _ => "TXFRD"
  | .rxfrd _ => "RXFRD"
  | .csrrd _ => "CSRRD"
  | .rlset _ _ => "RLSET"
  | .rladv => "RLADV"
  | .rlrd _ => "RLRD"
  | .estop => "ESTOP"
  | .estopclr => "ESTOPCLR"
  | .reservedD => "RESERVED_D"
  | .reservedE => "RESERVED_E"
  | .sreset => "SRESET"

/-- The instruction read from an instruction whose bits are `w`, numbered as spec/opcode_table.json numbers them. The
operation word is 32 bits; a longer word is no operation word, and its decoding is refused. Log entry 16. -/
def decodeTableWord (nbits w : Nat) : Option Instr :=
  if nbits ≤ 32 then (decode (BitVec.ofNat 32 (w % 2 ^ nbits))).toOption else none

/-- A word from its four fields (R76). -/
def opwOf (code ch : BitVec 4) (idx : Byte) (val : BitVec 16) : Word := code ++ ch ++ idx ++ val

/-- A byte operand in `val`: `val[7:0]` is the byte, `val[15:8]` is 0 (R76, R84). -/
def valOfByte (b : Byte) : BitVec 16 := (0 : Byte) ++ b

/-- The operation word of an operation; fields it does not use are assembled as 0 (R76, R77, R84). -/
def encode : Instr → Word
  | .nop => opwOf 0x0 0 0 0
  | .rxfeed b => opwOf 0x1 0 0 (valOfByte b)
  | .rxpoll => opwOf 0x2 0 0 0
  | .txpwr i b => opwOf 0x3 0 i (valOfByte b)
  | .txenc l x => opwOf 0x4 0 l (valOfByte x)
  | .txfrd i => opwOf 0x5 0 i 0
  | .rxfrd i => opwOf 0x6 0 i 0
  | .csrrd i => opwOf 0x7 0 i 0
  | .rlset ch v => opwOf 0x8 ch 0 v
  | .rladv => opwOf 0x9 0 0 0
  | .rlrd ch => opwOf 0xA ch 0 0
  | .estop => opwOf 0xB 0 0 0
  | .estopclr => opwOf 0xC 0 0 0
  | .reservedD => opwOf 0xD 0 0 0
  | .reservedE => opwOf 0xE 0 0 0
  | .sreset => opwOf 0xF 0 0 0

/-- The bits of the operation word an operation looks at: its code and the fields R76 lists for it (R78). -/
def Instr.usedBits : Instr → Word
  | .nop => 0xF0000000
  | .rxfeed _ => 0xF00000FF
  | .rxpoll => 0xF0000000
  | .txpwr _ _ => 0xF0FF00FF
  | .txenc _ _ => 0xF0FF00FF
  | .txfrd _ => 0xF0FF0000
  | .rxfrd _ => 0xF0FF0000
  | .csrrd _ => 0xF0FF0000
  | .rlset _ _ => 0xFF00FFFF
  | .rladv => 0xF0000000
  | .rlrd _ => 0xFF000000
  | .estop => 0xF0000000
  | .estopclr => 0xF0000000
  | .reservedD => 0xF0000000
  | .reservedE => 0xF0000000
  | .sreset => 0xF0000000

end Sys2Proof
end

