-- ==== Sys2Proof/Machine/State.lean ====
section
/-! DEFINITION. The state: the block's own (10_state.md R10, field for field), and around it the instance's
parameters, the operation port and the results returned. Log entries 1 to 5. -/

namespace Sys2Proof.Machine

/-- The two states of the receive parser (R11). -/
inductive RxState where
  | awaitingStart
  | inFrame
  deriving DecidableEq, Repr

/-- A byte buffer as (address, byte) cells: addresses strictly rising, no cell equal to what an unlisted address
reads as (`Memory.wf`). Log entry 5. -/
abbrev Memory := List Host.Cell

/-- What an unlisted address reads as: the reset contents of every buffer, `0x00` (R10, R27). -/
def Memory.unlisted : Byte := 0

/-- One actuator channel: `target[ch]` and `actual[ch]`, whole percents in 8 bits each (R19). -/
structure Channel where
  target : Byte
  actual : Byte
  deriving DecidableEq, Repr

/-- The state of the block, exactly the tuple of R10. -/
structure Block where
  /-- `rx_state` (R11). -/
  rxState : RxState
  /-- `rx_count` (R12). -/
  rxCount : Byte
  /-- `rxbuf`, `MAX_FRAME` bytes, hidden (R13). -/
  rxbuf : Memory
  /-- `rx_last` (R14). -/
  rxLast : Time
  /-- `cnt_framing` (R15). -/
  cntFraming : BitVec 16
  /-- `cnt_checksum` (R15). -/
  cntChecksum : BitVec 16
  /-- `rxf_valid` (R16). -/
  rxfValid : Bool
  /-- `rxf_cmd` (R16). -/
  rxfCmd : Byte
  /-- `rxf_len` (R16). -/
  rxfLen : Byte
  /-- `rxf_payload`, `N_MAX` bytes (R16). -/
  rxfPayload : Memory
  /-- `txp`, `N_MAX` bytes (R17). -/
  txp : Memory
  /-- `txf`, `MAX_FRAME` bytes (R18). -/
  txf : Memory
  /-- `txf_len` (R18). -/
  txfLen : Byte
  /-- `target` and `actual`, one entry per channel (R19). -/
  channels : List Channel
  /-- `estop` (R20). -/
  estop : Bool
  deriving DecidableEq, Repr

/-- What the host can present to the block next (R4, R200). Log entries 1 and 6. -/
inductive PortEvent where
  /-- An operation: its word and the value of `now` that comes with it. -/
  | operation (opw : Word) (now : Time)
  /-- The reset input pin is asserted and released. -/
  | resetPin
  deriving DecidableEq, Repr

/-- The state of the model: the block, and what surrounds it at the port. -/
structure State where
  /-- The instance's parameters; no step writes them (R6). Log entry 4. -/
  cfg : Config
  /-- The block's state (R10). -/
  blk : Block
  /-- The time input, as sampled with the operation being performed (R24). Log entry 3. -/
  now : Time
  /-- What the host will present, in order (R4, R25). Log entry 1. -/
  inputs : List PortEvent
  /-- The result records returned so far, oldest first (R80, R217). Log entry 2. -/
  results : List Res
  deriving DecidableEq, Repr

/-- The byte buffers of 20_memory.md R40, as address spaces. -/
inductive Space where
  | rxbuf
  | rxfPayload
  | txp
  | txf
  deriving DecidableEq, Repr

/-- Why the model stops. The spec's block never stops (R180): each case is an access the spec gives no meaning to, in
a state that no run from reset reaches. Log entry 7. -/
inductive Fault where
  /-- Raised by `RXFEED` (`rxbuf`), `TXFRD` (`txf`) and `RXFRD` (`rxf_payload`) on an element the buffer does not have
  (R40), when a length register exceeds its range (R10). Safe: no claim about the hardware is made there. -/
  | noSuchElement (space : Space) (index : Nat)
  /-- Raised by `RLSET` and `RLRD` on a channel below `N_CH` that the state does not hold (R10, R19). Safe. -/
  | noSuchChannel (ch : Nat)
  deriving DecidableEq, Repr

/-- Why the model gives an operation no meaning. Not the block's own `REFUSED`, which is a result (R81). -/
inductive Refusal where
  /-- Raised by an arm of `exec` for an operation without a meaning. No arm does. Safe. -/
  | notModelled (mnemonic : String)
  /-- Raised by `step` on a word the decoder rejects. No word is rejected (R77). Safe. -/
  | undecodable
  deriving DecidableEq, Repr

/-- The reset values of R10 (R27, R200). -/
def Block.reset (c : Config) : Block where
  rxState := .awaitingStart
  rxCount := 0
  rxbuf := []
  rxLast := 0
  cntFraming := 0
  cntChecksum := 0
  rxfValid := false
  rxfCmd := 0
  rxfLen := 0
  rxfPayload := []
  txp := []
  txf := []
  txfLen := 0
  channels := List.replicate c.nCh ⟨Config.safe, Config.safe⟩
  estop := false

/-- An instance right after reset, with no operation presented yet (R27, R201). -/
def State.resetOf (c : Config) : State where
  cfg := c
  blk := Block.reset c
  now := 0
  inputs := []
  results := []

/-- The reference instance right after reset (R6, R27). Log entry 4. -/
def State.reset : State := State.resetOf Config.reference

end Sys2Proof.Machine
end

