-- ==== Sys2Proof/Machine/Operands.lean ====
section
/-! DEFINITION. How operands are read (30_encoding.md R76; 00_scope.md R7): every field is unsigned but `val` of
`RLSET`, which is two's complement. -/

namespace Sys2Proof.Machine

/-- An index, length or channel operand as an unsigned integer (R76). -/
def indexOperand {n : Nat} (v : BitVec n) : Nat := v.toNat

/-- `sext_16(val)`, -32768 to 32767 (R7, R76). -/
def percentOperand (val : BitVec 16) : Int := val.toInt

/-- `clamp(p, 0, 100)`, held in 8 bits (R7, R150). -/
def clampPercent (p : Int) : Byte :=
  if p < 0 then 0 else if 100 < p then 100 else BitVec.ofInt 8 p

/-- A read value zero-extended into `RES.data` (R7, R142). -/
def zext32 (b : Byte) : Word := b.zeroExtend 32

/-- Two bytes in `RES.data`: `lo + 256 * hi` (R110, R156). -/
def packBytes (lo hi : Byte) : Word := (0 : BitVec 16) ++ hi ++ lo

end Sys2Proof.Machine
end

