-- ==== Sys2Proof/Machine/Flags.lean ====
section
/-! DEFINITION. The block has no condition codes (10_state.md R21). What stands here is the one-bit state and the
counters as the rules compute them, and the status map that shows them (R15, R22). -/

namespace Sys2Proof.Machine

/-- `sat_inc` on a 16-bit counter (00_scope.md R7; R15). -/
def satInc (n : BitVec 16) : BitVec 16 := if n = 0xFFFF then n else n + 1

/-- `STATUS[0]`: `0` in AwaitingStart, `1` in InFrame (R11, R22). -/
def RxState.bit : RxState → BitVec 1
  | .awaitingStart => 0
  | .inFrame => 1

/-- `STATUS` (R22). -/
def Block.statusWord (k : Block) : Word :=
  (0 : BitVec 16) ++ k.rxCount ++ (0 : BitVec 5) ++ BitVec.ofBool k.estop ++ BitVec.ofBool k.rxfValid
    ++ k.rxState.bit

/-- `RAMP_CFG[ch]` for `ch < N_CH`, and no entry otherwise (R22). -/
def rampCfg (c : Config) (ch : Nat) : Option Word :=
  (c.ramps[ch]?).map fun r => packBytes (BitVec.ofNat 8 r.up) (BitVec.ofNat 8 r.down)

/-- The status map: the value of the entry at `idx`, or `none` where R22 has no entry. -/
def Block.statusReg (c : Config) (k : Block) (idx : Nat) : Option Word :=
  match idx with
  | 0x00 => some k.statusWord
  | 0x01 => some (k.cntFraming.zeroExtend 32)
  | 0x02 => some (k.cntChecksum.zeroExtend 32)
  | 0x03 => some (packBytes k.rxfCmd k.rxfLen)
  | 0x04 => some (zext32 k.txfLen)
  | 0x05 => some k.rxLast
  | 0x08 => some (packBytes c.start c.endByte)
  | 0x09 => some ((0 : Byte) ++ BitVec.ofNat 8 c.nCh ++ BitVec.ofNat 8 c.maxFrame ++ BitVec.ofNat 8 c.nMax)
  | 0x0A => some (BitVec.ofNat 32 c.tTimeout)
  | n => if 0x10 ≤ n then rampCfg c (n - 0x10) else none

/-- The code of a status (R81). -/
def statusCode : Status → BitVec 2
  | .done => 0
  | .complete => 1
  | .invalid => 2
  | .refused => 3

/-- The code of a reason (R82). -/
def reasonCode : Reason → BitVec 4
  | .none => 0
  | .timeout => 1
  | .overflow => 2
  | .badEnd => 3
  | .checksum => 4
  | .illegalOp => 8
  | .badIndex => 9
  | .badLength => 10
  | .badChannel => 11

/-- `RES` as one 64-bit word: `data` at `[31:0]`, `st` at `[33:32]`, `reason` at `[39:36]`, other bits 0 (R80). -/
def packRes (r : Res) : BitVec 64 :=
  (0 : BitVec 24) ++ reasonCode r.reason ++ (0 : BitVec 2) ++ statusCode r.st ++ r.data

end Sys2Proof.Machine
end

