-- ==== Sys2Proof/Machine/Ops.lean ====
section
/-! DEFINITION. The named operations over the buffers, the parser registers and the port, and the shared abnormal
outcome: discarding the frame in flight, the block's counterpart of taking an exception (00_scope.md R8, R9;
60_exceptions.md R181, R185). -/

namespace Sys2Proof.Machine

/-! Buffers: 20_memory.md R40, R43. -/

/-- One byte of a buffer. -/
def Memory.read : Memory → Nat → Byte
  | [], _ => Memory.unlisted
  | (a, v) :: m, x => if x = a then v else Memory.read m x

/-- One byte stored, in the canonical form: storing what an unlisted address reads as removes the cell. -/
def Memory.write : Memory → Nat → Byte → Memory
  | [], x, v => if v = Memory.unlisted then [] else [(x, v)]
  | (a, w) :: m, x, v =>
    if x < a then
      if v = Memory.unlisted then (a, w) :: m else (x, v) :: (a, w) :: m
    else if x = a then
      if v = Memory.unlisted then m else (a, v) :: m
    else (a, w) :: Memory.write m x v

/-- The canonical form, from address `lo` on. -/
def Memory.wfFrom : Nat → Memory → Bool
  | _, [] => true
  | lo, (a, v) :: m => lo ≤ a && v != Memory.unlisted && Memory.wfFrom (a + 1) m

/-- The canonical form: addresses strictly rising, no cell equal to what an unlisted address reads as. -/
def Memory.wf (m : Memory) : Bool := Memory.wfFrom 0 m

/-- `m[a .. a+n-1]`. -/
def Memory.readRange (m : Memory) (a : Nat) : Nat → List Byte
  | 0 => []
  | n + 1 => m.read a :: Memory.readRange m (a + 1) n

/-- `m[a], m[a+1], ... <- bytes`, in rising order. -/
def Memory.writeList : Memory → Nat → List Byte → Memory
  | m, _, [] => m
  | m, a, b :: bs => Memory.writeList (m.write a b) (a + 1) bs

/-- How many elements a space has (R40). -/
def Space.size (c : Config) : Space → Nat
  | .rxbuf => c.maxFrame
  | .rxfPayload => c.nMax
  | .txp => c.nMax
  | .txf => c.maxFrame

/-- A value if the space has that element; an element it does not have is a fault (R40). Log entry 7. -/
def onElement {α : Type} (c : Config) (sp : Space) (i : Nat) (a : α) : Except Fault α :=
  if i < sp.size c then .ok a else .error (.noSuchElement sp i)

/-! Results: 30_encoding.md R80 to R82. -/

/-- `(DONE, NONE, data)`. -/
def Res.done (data : Word) : Res := ⟨.done, .none, data⟩

/-- `(INCOMPLETE, NONE, 0)`. -/
def Res.incomplete : Res := ⟨.incomplete, .none, 0⟩

/-- `(COMPLETE, NONE, data)`. -/
def Res.complete (data : Word) : Res := ⟨.complete, .none, data⟩

/-- `(INVALID, reason, 0)`. -/
def Res.invalid (r : Reason) : Res := ⟨.invalid, r, 0⟩

/-- `(REFUSED, reason, 0)`. -/
def Res.refused (r : Reason) : Res := ⟨.refused, r, 0⟩

/-! Abnormal outcomes: R8, R111, R181, R185. -/

/-- `parser_reset()`: back to AwaitingStart with an empty buffer; nothing else changes (R111). -/
def Block.parserReset (k : Block) : Block := { k with rxState := .awaitingStart, rxCount := 0 }

/-- Which counter a discard increments: `CHECKSUM` has its own, every other reason is a framing error (R15, R181). -/
def Block.countDiscard (r : Reason) (k : Block) : Block :=
  match r with
  | .checksum => { k with cntChecksum := satInc k.cntChecksum }
  | .none => k
  | .timeout => { k with cntFraming := satInc k.cntFraming }
  | .overflow => { k with cntFraming := satInc k.cntFraming }
  | .badEnd => { k with cntFraming := satInc k.cntFraming }
  | .illegalOp => k
  | .badIndex => k
  | .badLength => k
  | .badChannel => k

/-- Discarding the frame in flight for a reason, the shared abnormal outcome of the parser: `parser_reset()` and one
counter (R181). It saves nothing and there is no return from it (R185). -/
def Block.discardFrame (r : Reason) (k : Block) : Block := k.parserReset.countDiscard r

/-- The end of an operation that discards: the block after it and `(INVALID, reason, 0)` (R181). -/
def Block.discardWith (r : Reason) (k : Block) : Block × Res := (k.discardFrame r, Res.invalid r)

/-- `raise Refused(reason)`: no state changes, `(REFUSED, reason, 0)` (R8). -/
def Block.refuse (k : Block) (r : Reason) : Block × Res := (k, Res.refused r)

/-! Time: 42_rx_parser.md R117, R118. -/

/-- `(now - rx_last) mod 2^32` (R118). -/
def Block.elapsed (k : Block) (t : Time) : Nat := (t - k.rxLast).toNat

/-- InFrame, and more than `T_TIMEOUT` ticks since the last `RXFEED` (R117, R118). -/
def Block.timedOut (c : Config) (k : Block) (t : Time) : Bool :=
  decide (k.rxState = .inFrame) && decide (c.tTimeout < k.elapsed t)

/-! The port: R4, R5, R200. -/

/-- The state after an operation that leaves the block at `k` and returns `r`; nothing else changes (R4, R8). -/
def State.after (s : State) (k : Block) (r : Res) : State := { s with blk := k, results := s.results ++ [r] }

/-- The end of an operation: the block's new state stands and its result record is returned (R4, R8). -/
def State.complete (s : State) : Except Fault (Block × Res) → Host.Outcome State Fault Refusal
  | .ok (k, r) => .next (s.after k r)
  | .error f => .fault f

/-- Reset: every field of R10 takes its reset value (R27, R200); the parameters and the port are not the block's. -/
def State.resetBlock (s : State) : State := { s with blk := Block.reset s.cfg }

/-- What the block finds at its port. -/
inductive Presented where
  /-- Nothing is presented. -/
  | idle
  /-- The reset pin, and the state with that event taken. -/
  | reset (s : State)
  /-- An operation word, and the state with that event taken and `now` sampled. -/
  | operation (opw : Word) (s : State)
  deriving DecidableEq, Repr

/-- The next event at the port is taken (R4). -/
def State.accept (s : State) : Presented :=
  match s.inputs with
  | [] => .idle
  | .resetPin :: rest => .reset { s with inputs := rest }
  | .operation w t :: rest => .operation w { s with inputs := rest, now := t }

/-- The operation word `w` at the head of what the host will present, with the `now` it has. -/
def State.present (s : State) (w : Word) : State := { s with inputs := .operation w s.now :: s.inputs }

end Sys2Proof.Machine
end

