-- ==== Sys2Proof/Machine/Access.lean ====
section
/-! DEFINITION. Buffer and status access: 43_buffer_access.md R140, R142, R143, R144. -/

namespace Sys2Proof.Machine

/-- `txp[i] <- b` (R140). -/
def Block.stage (i : Nat) (b : Byte) (k : Block) : Block := { k with txp := k.txp.write i b }

/-- `TXPWR idx, byte` on the block (R140). -/
def Block.stagePayload (c : Config) (i : Nat) (b : Byte) (k : Block) : Block × Res :=
  if c.nMax ≤ i then k.refuse .badIndex else (k.stage i b, Res.done 0)

/-- `TXFRD idx` on the block (R142). -/
def Block.readTxFrame (c : Config) (i : Nat) (k : Block) : Except Fault (Block × Res) :=
  if k.txfLen.toNat ≤ i then .ok (k.refuse .badIndex)
  else onElement c .txf i (k, Res.done (zext32 (k.txf.read i)))

/-- `RXFRD idx` on the block (R143). -/
def Block.readRxPayload (c : Config) (i : Nat) (k : Block) : Except Fault (Block × Res) :=
  if k.rxfValid = false ∨ k.rxfLen.toNat ≤ i then .ok (k.refuse .badIndex)
  else onElement c .rxfPayload i (k, Res.done (zext32 (k.rxfPayload.read i)))

/-- `CSRRD idx` on the block (R144). -/
def Block.readStatus (c : Config) (i : Nat) (k : Block) : Block × Res :=
  match k.statusReg c i with
  | some v => (k, Res.done v)
  | none => k.refuse .badIndex

/-- `TXPWR idx, byte` (R140). -/
def execTxpwr (idx byte : Byte) (s : State) : Host.Outcome State Fault Refusal :=
  s.complete (.ok (s.blk.stagePayload s.cfg (indexOperand idx) byte))

/-- `TXFRD idx` (R142). -/
def execTxfrd (idx : Byte) (s : State) : Host.Outcome State Fault Refusal :=
  s.complete (s.blk.readTxFrame s.cfg (indexOperand idx))

/-- `RXFRD idx` (R143). -/
def execRxfrd (idx : Byte) (s : State) : Host.Outcome State Fault Refusal :=
  s.complete (s.blk.readRxPayload s.cfg (indexOperand idx))

/-- `CSRRD idx` (R144). -/
def execCsrrd (idx : Byte) (s : State) : Host.Outcome State Fault Refusal :=
  s.complete (.ok (s.blk.readStatus s.cfg (indexOperand idx)))

end Sys2Proof.Machine
end

