-- ==== Sys2Proof/Machine/Digest.lean ====
section
/-! DEFINITION. The checksum digest unit: 40_checksum_digest.md R90 to R94. -/

namespace Sys2Proof.Machine

/-- One of the 8 shifts of `CRC8_07` (R93). -/
def crc8Shift (c : Byte) : Byte := if c.getLsbD 7 then (c <<< 1) ^^^ 0x07 else c <<< 1

/-- Eight shifts (R93). -/
def crc8Shift8 (c : Byte) : Byte :=
  crc8Shift (crc8Shift (crc8Shift (crc8Shift (crc8Shift (crc8Shift (crc8Shift (crc8Shift c)))))))

/-- `CRC8_07` from a running value (R93). -/
def crc8From : Byte → List Byte → Byte
  | c, [] => c
  | c, b :: bs => crc8From (crc8Shift8 (c ^^^ b)) bs

/-- `CRC8_07` (R93). -/
def crc8 (s : List Byte) : Byte := crc8From 0x00 s

/-- `XOR8` (R94). -/
def xor8 (s : List Byte) : Byte := s.foldl (fun c b => c ^^^ b) 0

/-- `SUM8` (R94). -/
def sum8 (s : List Byte) : Byte := s.foldl (fun c b => c + b) 0

/-- The parameter `DIGEST` of an instance (R90, R92). -/
def digest (c : Config) (s : List Byte) : Byte :=
  match c.digestSel with
  | .crc8 => crc8 s
  | .xor8 => xor8 s
  | .sum8 => sum8 s
  | .other k => Config.otherDigest k s

end Sys2Proof.Machine
end

