-- ==== Sys2Proof/Machine/Frame.lean ====
section
/-! DEFINITION. The frame: layout, validity, decoding (30_encoding.md R60 to R68; 41_tx_encoder.md R100) and the
frames and payloads the protocol requires (R72 to R75). -/

namespace Sys2Proof.Machine

/-- `encode(command, payload)` (R60, R100), for `len(payload) <= N_MAX`. Beyond it the spec defines no frame and no
operation asks for one; there this function is the model's choice: the same layout, LENGTH reduced modulo 256 (DESIGN
CHOICE, log entry 19). -/
def encodeFrame (c : Config) (command : Byte) (payload : List Byte) : List Byte :=
  let len := BitVec.ofNat 8 payload.length
  [c.start, command, len] ++ payload ++ [digest c ([command, len] ++ payload), c.endByte]

/-- `valid_frame(f)` (R67). -/
abbrev validFrame (c : Config) (f : List Byte) : Prop :=
  5 ≤ f.length ∧ f.getD 0 0 = c.start ∧ (f.getD 2 0).toNat ≤ c.nMax ∧
    f.length = (f.getD 2 0).toNat + 5 ∧ f.getD (f.length - 1) 0 = c.endByte ∧
    f.getD (f.length - 2) 0 = digest c ((f.drop 1).take (f.length - 3))

/-- `decode(f) = (command, payload)` of a valid frame (R67). Of any other sequence the spec decodes nothing, and what this
function answers there is the model's choice: offsets beyond the end read as 0 (DESIGN CHOICE, log entry 19). -/
def decodeFrame (f : List Byte) : Byte × List Byte :=
  (f.getD 1 0, (f.drop 3).take (f.getD 2 0).toNat)

/-- An encodable pair: any command byte, `len(payload) <= N_MAX` (R68). -/
abbrev encodablePair (c : Config) (_command : Byte) (payload : List Byte) : Prop :=
  payload.length ≤ c.nMax

/-- A valid pair: encodable, and the command is neither sentinel (R68). -/
abbrev validPair (c : Config) (command : Byte) (payload : List Byte) : Prop :=
  command ≠ c.start ∧ command ≠ c.endByte ∧ encodablePair c command payload

/-! The frames the protocol requires. -/

/-- The liveness check (R73). -/
def pingFrame (c : Config) : List Byte := encodeFrame c c.host.cmdPing []

/-- The empty acknowledgement (R73). -/
def ackFrame (c : Config) : List Byte := encodeFrame c c.host.cmdAck []

/-- The negative acknowledgement, always without payload (R73). -/
def nakFrame (c : Config) : List Byte := encodeFrame c c.host.cmdNak []

/-- A 32-bit quantity, least significant byte first (R42, R74). -/
def littleEndian32 (w : Word) : List Byte :=
  [w.extractLsb' 0 8, w.extractLsb' 8 8, w.extractLsb' 16 8, w.extractLsb' 24 8]

/-- The 32 bits four bytes stand for, the first the least significant (R42, R74). -/
def fromLittleEndian32 (b0 b1 b2 b3 : Byte) : Word := b3 ++ b2 ++ b1 ++ b0

/-- The telemetry-update request (R74); the floating-point quantity as its 32 bits. -/
structure UpdateRequest where
  quantity : Word
  status1 : Byte
  status2 : Byte
  status3 : Byte
  deriving DecidableEq, Repr

/-- The 7-byte request payload (R74). -/
def updateRequestPayload (q : UpdateRequest) : List Byte :=
  littleEndian32 q.quantity ++ [q.status1, q.status2, q.status3]

/-- The request a payload holds; none unless it has the 7 bytes of the schema (R74, R190). -/
def readUpdateRequest : List Byte → Option UpdateRequest
  | [b0, b1, b2, b3, s1, s2, s3] => some ⟨fromLittleEndian32 b0 b1 b2 b3, s1, s2, s3⟩
  | _ => none

/-- The 8-byte acknowledgement payload: derived value, scaled value, the echoed status codes (R75). -/
def updateAckPayload (derived : Word) (scaled : Byte) (q : UpdateRequest) : List Byte :=
  littleEndian32 derived ++ [scaled, q.status1, q.status2, q.status3]

end Sys2Proof.Machine
end

