-- ==== Sys2Proof/Machine/Encoder.lean ====
section
/-! DEFINITION. The frame encoder: 41_tx_encoder.md R100 to R103. -/

namespace Sys2Proof.Machine

/-- The bytes of a frame go to `txf[0 ..]` and its length to `txf_len` (R101). -/
def Block.storeFrame (f : List Byte) (k : Block) : Block :=
  { k with txf := k.txf.writeList 0 f, txfLen := BitVec.ofNat 8 f.length }

/-- The frame `TXENC len, cmd` encodes: `encode(cmd, txp[0 .. len-1])` (R101). -/
def Block.stagedFrame (c : Config) (len : Nat) (cmd : Byte) (k : Block) : List Byte :=
  encodeFrame c cmd (k.txp.readRange 0 len)

/-- `TXENC len, cmd` on the block (R101). -/
def Block.encodeStaged (c : Config) (len : Nat) (cmd : Byte) (k : Block) : Block × Res :=
  if c.nMax < len then k.refuse .badLength
  else (k.storeFrame (k.stagedFrame c len cmd), Res.done (BitVec.ofNat 32 (len + 5)))

/-- `TXENC len, cmd` (R101). -/
def execTxenc (len cmd : Byte) (s : State) : Host.Outcome State Fault Refusal :=
  s.complete (.ok (s.blk.encodeStaged s.cfg (indexOperand len) cmd))

end Sys2Proof.Machine
end

