-- ==== Sys2Proof/Machine/Limiter.lean ====
section
/-! DEFINITION. The actuator ramp limiter and the emergency stop: 44_ramp_limiter.md R150 to R163. -/

namespace Sys2Proof.Machine

/-- The value `setTarget` stores: the clamped percent, or `SAFE` under emergency stop (R150, R159). -/
def Block.targetValue (k : Block) (p : Int) : Byte := if k.estop then Config.safe else clampPercent p

/-- `target[ch] <- v`; `actual[ch]` does not move (R150). -/
def Block.storeTarget (ch : Nat) (v : Byte) (k : Block) : Block :=
  { k with channels := k.channels.modify ch fun x => { x with target := v } }

/-- A channel below `N_CH` of the state; one it does not hold is a fault (R10, R19). Log entry 7. -/
def Block.onChannel {α : Type} (k : Block) (ch : Nat) (f : Channel → α) : Except Fault α :=
  match k.channels[ch]? with
  | some x => .ok (f x)
  | none => .error (.noSuchChannel ch)

/-- `RLSET ch, val` on the block (R150, R151). -/
def Block.setTarget (c : Config) (ch : Nat) (p : Int) (k : Block) : Except Fault (Block × Res) :=
  if c.nCh ≤ ch then .ok (k.refuse .badChannel)
  else k.onChannel ch fun _ => (k.storeTarget ch (k.targetValue p), Res.done (zext32 (k.targetValue p)))

/-- One channel's `actual` after one `advance`, in integers (R153, R160). -/
def advanceActual (r : Ramp) (target actual : Nat) : Nat :=
  if actual < target then actual + min r.up (target - actual)
  else if target < actual then actual - min r.down (actual - target)
  else actual

/-- One channel after one `advance` (R153). -/
def advanceChannel (r : Ramp) (x : Channel) : Channel :=
  { x with actual := BitVec.ofNat 8 (advanceActual r x.target.toNat x.actual.toNat) }

/-- `advance()`: every channel moves once, each by its own rates (R153). -/
def Block.advance (c : Config) (k : Block) : Block :=
  { k with channels := List.zipWith advanceChannel c.ramps k.channels }

/-- `RLRD ch` on the block (R156). -/
def Block.readChannel (c : Config) (ch : Nat) (k : Block) : Except Fault (Block × Res) :=
  if c.nCh ≤ ch then .ok (k.refuse .badChannel)
  else k.onChannel ch fun x => (k, Res.done (packBytes x.actual x.target))

/-- `ESTOP` on the block: the flag, and every target and actual at `SAFE` at once (R157). -/
def Block.emergencyStop (k : Block) : Block :=
  { k with estop := true, channels := k.channels.map fun _ => ⟨Config.safe, Config.safe⟩ }

/-- `ESTOPCLR` on the block: the flag alone (R158). -/
def Block.clearStop (k : Block) : Block := { k with estop := false }

/-- `RLSET ch, val` (R151). -/
def execRlset (ch : BitVec 4) (val : BitVec 16) (s : State) : Host.Outcome State Fault Refusal :=
  s.complete (s.blk.setTarget s.cfg (indexOperand ch) (percentOperand val))

/-- `RLADV` (R154). -/
def execRladv (s : State) : Host.Outcome State Fault Refusal :=
  s.complete (.ok (s.blk.advance s.cfg, Res.done 0))

/-- `RLRD ch` (R156). -/
def execRlrd (ch : BitVec 4) (s : State) : Host.Outcome State Fault Refusal :=
  s.complete (s.blk.readChannel s.cfg (indexOperand ch))

/-- `ESTOP` (R157). -/
def execEstop (s : State) : Host.Outcome State Fault Refusal :=
  s.complete (.ok (s.blk.emergencyStop, Res.done 0))

/-- `ESTOPCLR` (R158). -/
def execEstopclr (s : State) : Host.Outcome State Fault Refusal :=
  s.complete (.ok (s.blk.clearStop, Res.done 0))

end Sys2Proof.Machine
end

