-- ==== Sys2Proof/Machine/Parser.lean ====
section
/-! DEFINITION. The receive parser: 42_rx_parser.md R110 to R121. -/

namespace Sys2Proof.Machine

/-- `rx_last <- now` (R14, R110 part 2). -/
def Block.stamp (t : Time) (k : Block) : Block := { k with rxLast := t }

/-- A start sentinel opens a frame: `rxbuf[0] <- b; rx_count <- 1; rx_state <- InFrame` (R113). -/
def Block.openFrame (b : Byte) (k : Block) : Block :=
  { k with rxbuf := k.rxbuf.write 0 b, rxCount := 1, rxState := .inFrame }

/-- A byte arriving in AwaitingStart: a start sentinel opens a frame, any other byte is discarded (R113). -/
def Block.awaitByte (c : Config) (b : Byte) (k : Block) : Block := if b = c.start then k.openFrame b else k

/-- `rxbuf[rx_count] <- b; rx_count <- n` (R110 part 4). -/
def Block.appendByte (b : Byte) (n : Nat) (k : Block) : Block :=
  { k with rxbuf := k.rxbuf.write k.rxCount.toNat b, rxCount := BitVec.ofNat 8 n }

/-- COMMAND, LENGTH and PAYLOAD of the frame in `rxbuf` go into the latch (R114). -/
def Block.latchFrame (k : Block) : Block :=
  { k with
    rxfCmd := k.rxbuf.read 1
    rxfLen := k.rxbuf.read 2
    rxfPayload := k.rxfPayload.writeList 0 (k.rxbuf.readRange 3 (k.rxbuf.read 2).toNat)
    rxfValid := true }

/-- The byte at the expected END offset has been stored and `rx_count` is `n` (R114, R115). -/
def Block.finishFrame (c : Config) (b : Byte) (n : Nat) (k : Block) : Block × Res :=
  if b ≠ c.endByte then k.discardWith .badEnd
  else if digest c (k.rxbuf.readRange 1 (n - 3)) ≠ k.rxbuf.read (n - 2) then k.discardWith .checksum
  else (k.latchFrame.parserReset, Res.complete (packBytes (k.rxbuf.read 1) (k.rxbuf.read 2)))

/-- `rx_count`, now `n`, has reached the expected END offset: `n >= 3` and `n = rxbuf[2] + 5`, in integers
(R110, R112). -/
def Block.frameEnds (n : Nat) (k : Block) : Bool := decide (3 ≤ n) && decide (n = (k.rxbuf.read 2).toNat + 5)

/-- The byte stored at offset `n` ends the frame, or the frame goes on (R110 part 4). -/
def Block.endOrGoOn (c : Config) (b : Byte) (n : Nat) (k : Block) : Block × Res :=
  if k.frameEnds (n + 1) then k.finishFrame c b (n + 1) else (k, Res.incomplete)

/-- A byte arriving InFrame, not timed out (R110 part 4). -/
def Block.accumulate (c : Config) (b : Byte) (k : Block) : Except Fault (Block × Res) :=
  if k.rxCount.toNat = c.maxFrame then .ok (k.discardWith .overflow)
  else
    (onElement c .rxbuf k.rxCount.toNat (k.appendByte b (k.rxCount.toNat + 1))).map (Block.endOrGoOn c b k.rxCount.toNat)

/-- `feed(b, now)` (R110). -/
def Block.feed (c : Config) (b : Byte) (t : Time) (k : Block) : Except Fault (Block × Res) :=
  if k.timedOut c t then
    .ok ((((k.discardFrame .timeout).stamp t).awaitByte c b), Res.invalid .timeout)
  else
    match k.rxState with
    | .awaitingStart => .ok ((k.stamp t).awaitByte c b, Res.incomplete)
    | .inFrame => (k.stamp t).accumulate c b

/-- `poll(now)` (R120). -/
def Block.poll (c : Config) (t : Time) (k : Block) : Block × Res :=
  if k.timedOut c t then k.discardWith .timeout else (k, Res.incomplete)

/-- `RXFEED byte` (R119). -/
def execRxfeed (byte : Byte) (s : State) : Host.Outcome State Fault Refusal :=
  s.complete (s.blk.feed s.cfg byte s.now)

/-- `RXPOLL` (R121). -/
def execRxpoll (s : State) : Host.Outcome State Fault Refusal :=
  s.complete (.ok (s.blk.poll s.cfg s.now))

end Sys2Proof.Machine
end

