-- ==== Sys2Proof/Machine/System.lean ====
section
/-! DEFINITION. The system operations and the reserved codes: 45_system.md R170, R172, R173. -/

namespace Sys2Proof.Machine

/-- `NOP`: no state changes (R170). -/
def execNop (s : State) : Host.Outcome State Fault Refusal :=
  s.complete (.ok (s.blk, Res.done 0))

/-- `SRESET`: the effect of the reset pin, as an operation (R172, R200). -/
def execSreset (s : State) : Host.Outcome State Fault Refusal :=
  s.resetBlock.complete (.ok (s.resetBlock.blk, Res.done 0))

/-- The reserved code 0xD: `raise Refused(ILLEGAL_OP)` (R173). -/
def execReservedD (s : State) : Host.Outcome State Fault Refusal :=
  s.complete (.ok (s.blk.refuse .illegalOp))

/-- The reserved code 0xE: `raise Refused(ILLEGAL_OP)` (R173). -/
def execReservedE (s : State) : Host.Outcome State Fault Refusal :=
  s.complete (.ok (s.blk.refuse .illegalOp))

end Sys2Proof.Machine
end

