-- ==== Sys2Proof/Machine/Dispatch.lean ====
section
/-! DEFINITION. One arm per operation: 45_system.md R174. -/

namespace Sys2Proof.Machine

/-- The meaning of each operation (R77, R174). -/
def exec (i : Instr) (s : State) : Host.Outcome State Fault Refusal :=
  match i with
  | .nop => Sys2Proof.Machine.execNop s
  | .rxfeed byte => Sys2Proof.Machine.execRxfeed byte s
  | .rxpoll => Sys2Proof.Machine.execRxpoll s
  | .txpwr idx byte => Sys2Proof.Machine.execTxpwr idx byte s
  | .txenc len cmd => Sys2Proof.Machine.execTxenc len cmd s
  | .txfrd idx => Sys2Proof.Machine.execTxfrd idx s
  | .rxfrd idx => Sys2Proof.Machine.execRxfrd idx s
  | .csrrd idx => Sys2Proof.Machine.execCsrrd idx s
  | .rlset ch val => Sys2Proof.Machine.execRlset ch val s
  | .rladv => Sys2Proof.Machine.execRladv s
  | .rlrd ch => Sys2Proof.Machine.execRlrd ch s
  | .estop => Sys2Proof.Machine.execEstop s
  | .estopclr => Sys2Proof.Machine.execEstopclr s
  | .reservedD => Sys2Proof.Machine.execReservedD s
  | .reservedE => Sys2Proof.Machine.execReservedE s
  | .sreset => Sys2Proof.Machine.execSreset s

end Sys2Proof.Machine
end

