-- ==== Sys2Proof/Machine/Step.lean ====
section
/-! DEFINITION. One step: the next event at the port (00_scope.md R4, R5; 45_system.md R174; 70_reset_and_hazards.md
R200, R201). -/

namespace Sys2Proof.Machine

/-- One event at the port: nothing presented, nothing happens (R201); the reset pin resets (R200); an operation word is
decoded and performed (R174). -/
def step (s : State) : Host.Outcome State Fault Refusal :=
  match s.accept with
  | .idle => .next s
  | .reset s' => .next s'.resetBlock
  | .operation w s' =>
    match decode w with
    | .ok i => exec i s'
    | .error _ => .refused .undecodable

/-- The state with the instruction whose bits are `w` presented next (log entry 1). -/
def State.withFetchWord (s : State) (nbits w : Nat) : State := s.present (BitVec.ofNat 32 (w % 2 ^ nbits))

end Sys2Proof.Machine
end

