-- ==== Sys2Proof/Machine/HostSide.lean ====
section
/-! DEFINITION. The host's Command Dispatcher as far as the spec gives its contract: 60_exceptions.md R190 to R193.
It is outside the block (00_scope.md R3), and no step uses it. Log entry 12. -/

namespace Sys2Proof.Machine

/-- The derived value and the scaled value of an acknowledgement, computed by software the spec leaves out
(30_encoding.md R75; 93_implementation_defined.md S2): an argument of the dispatcher. -/
abbrev DerivedValues := UpdateRequest → Word × Byte

/-- The one datum the spec has of the derived value: quantity `1000.0` gives `1.0` (R75; 93_implementation_defined.md S2),
both as the 32 bits R74 gives for them. Log entry 12. -/
abbrev keepsWorkedExample (derived : DerivedValues) : Prop :=
  ∀ q : UpdateRequest, q.quantity = 0x447A0000 → (derived q).1 = 0x3F800000

/-- The reply to a decoded frame: its command and payload. A known command with the payload length of its schema is
acknowledged, anything else is answered with a negative acknowledgement (R190, R191). -/
def dispatchReply (c : Config) (derived : DerivedValues) (command : Byte) (payload : List Byte) : Byte × List Byte :=
  if command = c.host.cmdPing then
    if payload = [] then (c.host.cmdAck, []) else (c.host.cmdNak, [])
  else if command = c.host.cmdUpdate then
    match readUpdateRequest payload with
    | some q => (c.host.cmdAck, updateAckPayload (derived q).1 (derived q).2 q)
    | none => (c.host.cmdNak, [])
  else (c.host.cmdNak, [])

/-- The one reply, if any, to a result: every `COMPLETE` and every `CHECKSUM` discard is answered, other discards where
`NAK_ON_FRAMING` says so (R192, R193). -/
def hostReply (c : Config) (derived : DerivedValues) (k : Block) (r : Res) : Option (Byte × List Byte) :=
  match r.st with
  | .complete => some (dispatchReply c derived k.rxfCmd (k.rxfPayload.readRange 0 k.rxfLen.toNat))
  | .invalid =>
    if r.reason = .checksum ∨ r.reason ∈ c.host.nakOnFraming then some (c.host.cmdNak, []) else none
  | .done => none
  | .refused => none

end Sys2Proof.Machine
end

