-- ==== Sys2Proof/Machine/Trace.lean ====
section
/-! DEFINITION. Operation traces and pseudo-operations, the block's assembly language: 30_encoding.md R84, R85.
Log entries 13, 14. -/

namespace Sys2Proof.Machine

/-- One line of a trace: an operation, and `@t` where the line gives one (R84). -/
structure TraceLine where
  op : Instr
  stamp : Option Time
  deriving DecidableEq, Repr

/-- A line without `@t` (R84). -/
def TraceLine.plain (i : Instr) : TraceLine := ⟨i, none⟩

/-- A line with `@t` (R84). -/
def TraceLine.stamped (i : Instr) (t : Time) : TraceLine := ⟨i, some t⟩

/-- What the host presents for a trace: where `@t` is omitted, `now` is that of the previous line (R84). -/
def traceEvents : Time → List TraceLine → List PortEvent
  | _, [] => []
  | t, l :: ls => .operation (encode l.op) (l.stamp.getD t) :: traceEvents (l.stamp.getD t) ls

/-- A whole trace: `now` is 0 on a first line that gives none (R84). -/
def traceOf (ls : List TraceLine) : List PortEvent := traceEvents 0 ls

/-! Pseudo-operations: R85. -/

/-- `RXBYTES b0 ... bk @t +d`. -/
def rxBytes : List Byte → Time → Time → List TraceLine
  | [], _, _ => []
  | b :: bs, t, d => TraceLine.stamped (.rxfeed b) t :: rxBytes bs (t + d) d

/-- `TXPWR i, p0; TXPWR i+1, p1; ...`, an index above 255 reduced modulo 256 (DESIGN CHOICE, log entry 20). -/
def stageLines : Nat → List Byte → List TraceLine
  | _, [] => []
  | i, p :: ps => TraceLine.plain (.txpwr (BitVec.ofNat 8 i) p) :: stageLines (i + 1) ps

/-- `SEND cmd, [p0, ..., p(n-1)]`. For more than 255 payload bytes `idx` holds neither the last indices nor the length
(R76), and the spec gives no expansion; there the model reduces both modulo 256 (DESIGN CHOICE, log entry 20). -/
def sendLines (cmd : Byte) (payload : List Byte) : List TraceLine :=
  stageLines 0 payload ++ [TraceLine.plain (.txenc (BitVec.ofNat 8 payload.length) cmd)]

/-- The lines of `LOOPBACK` from frame byte `i` on; `bytes` are what the `TXFRD`s return. -/
def loopbackFrom : Nat → List Byte → Time → Time → List TraceLine
  | _, [], _, _ => []
  | i, b :: bs, t, d =>
    TraceLine.plain (.txfrd (BitVec.ofNat 8 i)) :: TraceLine.stamped (.rxfeed b) t :: loopbackFrom (i + 1) bs (t + d) d

/-- `LOOPBACK @t +d` for the frame the block holds in `txf` (log entry 14). -/
def loopbackLines (k : Block) (t d : Time) : List TraceLine :=
  loopbackFrom 0 (k.txf.readRange 0 k.txfLen.toNat) t d

/-- `RLTICK n`. -/
def rlTick (n : Nat) : List TraceLine := List.replicate n (TraceLine.plain .rladv)

/-- `RXSERVICE [b0 ... bk] @t`: one invocation of the host's polling loop; none where it would feed more than
`RX_BURST_MAX` bytes (R85, R128). -/
def rxService (c : Config) (bs : List Byte) (t : Time) : Option (List TraceLine) :=
  if bs.length ≤ c.host.rxBurstMax then some (rxBytes bs t 0 ++ [TraceLine.stamped .rxpoll t]) else none

/-! The written form of a line: R84. -/

/-- A digit of a number in the given base. -/
def digitValue (base : Nat) (ch : Char) : Option Nat :=
  let n := ch.toNat
  let d := if 48 ≤ n ∧ n ≤ 57 then n - 48 else if 97 ≤ n ∧ n ≤ 102 then n - 87
    else if 65 ≤ n ∧ n ≤ 70 then n - 55 else base
  if d < base then some d else none

/-- The digits of a number in the given base, after a running value. -/
def digitsFrom (base : Nat) : Nat → List Char → Option Nat
  | acc, [] => some acc
  | acc, ch :: cs => (digitValue base ch).bind fun d => digitsFrom base (acc * base + d) cs

/-- An unsigned number, decimal or `0x` hexadecimal. -/
def readNat : List Char → Option Nat
  | [] => none
  | ['0', 'x'] => none
  | '0' :: 'x' :: cs => digitsFrom 16 0 cs
  | cs => digitsFrom 10 0 cs

/-- A number; a percent may be negative. -/
def readInt : List Char → Option Int
  | '-' :: cs => (readNat cs).map fun n => -(n : Int)
  | cs => (readNat cs).map fun n => (n : Int)

/-- An unsigned operand in a field of `n` bits. -/
def fieldOf (n : Nat) (v : Int) : Option (BitVec n) :=
  if 0 ≤ v ∧ v < 2 ^ n then some (BitVec.ofInt n v) else none

/-- The percent of `RLSET` in its 16-bit field. -/
def percentOf (v : Int) : Option (BitVec 16) :=
  if -32768 ≤ v ∧ v ≤ 32767 then some (BitVec.ofInt 16 v) else none

/-- The operation of a mnemonic and its operands, in the order `ch`, `idx`, `val` or `byte`. -/
def readOperation (m : String) (args : List Int) : Option Instr :=
  match m, args with
  | "NOP", [] => some .nop
  | "RXFEED", [b] => (fieldOf 8 b).map .rxfeed
  | "RXPOLL", [] => some .rxpoll
  | "TXPWR", [i, b] => (fieldOf 8 i).bind fun i => (fieldOf 8 b).map (.txpwr i)
  | "TXENC", [l, x] => (fieldOf 8 l).bind fun l => (fieldOf 8 x).map (.txenc l)
  | "TXFRD", [i] => (fieldOf 8 i).map .txfrd
  | "RXFRD", [i] => (fieldOf 8 i).map .rxfrd
  | "CSRRD", [i] => (fieldOf 8 i).map .csrrd
  | "RLSET", [ch, p] => (fieldOf 4 ch).bind fun ch => (percentOf p).map (.rlset ch)
  | "RLADV", [] => some .rladv
  | "RLRD", [ch] => (fieldOf 4 ch).map .rlrd
  | "ESTOP", [] => some .estop
  | "ESTOPCLR", [] => some .estopclr
  | "SRESET", [] => some .sreset
  | _, _ => none

/-- The words of a line: blanks and commas separate, `;` ends it with a comment. `cur` holds the word being read. -/
def wordsFrom : List Char → List Char → List (List Char)
  | cur, [] => if cur = [] then [] else [cur]
  | cur, ch :: cs =>
    if ch = ';' then (if cur = [] then [] else [cur])
    else if ch = ' ' ∨ ch = ',' ∨ ch = '\t' then
      (if cur = [] then wordsFrom [] cs else cur :: wordsFrom [] cs)
    else wordsFrom (cur ++ [ch]) cs

/-- Operands up to an optional last `@t`. -/
def readOperands : List (List Char) → Option (List Int × Option Time)
  | [] => some ([], none)
  | ['@' :: cs] => (readNat cs).bind fun n => (fieldOf 32 n).map fun t => ([], some t)
  | w :: ws => (readInt w).bind fun v => (readOperands ws).map fun r => (v :: r.1, r.2)

/-- A line of a trace, `MNEMONIC operands` with an optional `@t` and comment; none where it is no such line (R84).
Log entry 13. -/
def readLine (line : String) : Option TraceLine :=
  match wordsFrom [] line.toList with
  | [] => none
  | m :: ws =>
    (readOperands ws).bind fun r => (readOperation (String.ofList m) r.1).map fun i => ⟨i, r.2⟩

end Sys2Proof.Machine
end

