-- ==== Sys2Proof/Safety.lean ====
section
/-! DEFINITION. The terms claims use: legal instances (00_scope.md R6, R91), the invariant of the state (R12, R13, R19,
R20, R102), and the duties of the host (70_reset_and_hazards.md R206 to R209). -/

namespace Sys2Proof

open Machine

/-- Property P2 of `DIGEST`: two equal-length arguments, of the lengths a frame has, that differ in exactly one position
have different digests (40_checksum_digest.md R90, R91). -/
def Config.SinglePositionSensitive (c : Config) : Prop :=
  ∀ (front back : List Byte) (x y : Byte), x ≠ y →
    2 ≤ front.length + 1 + back.length → front.length + 1 + back.length ≤ c.nMax + 2 →
    digest c (front ++ x :: back) ≠ digest c (front ++ y :: back)

/-- A legal instance: every constraint of R6, and property P2 of its digest (P1 holds of any function). -/
structure Config.Legal (c : Config) : Prop where
  params : c.wf = true
  sensitive : c.SinglePositionSensitive

namespace Machine

/-- A buffer in canonical form with nothing but the reset value outside its `size` elements. -/
structure Memory.Fits (m : Memory) (size : Nat) : Prop where
  canonical : m.wf = true
  outside : ∀ a, size ≤ a → m.read a = Memory.unlisted

/-- What holds of the block's state after reset and after every operation. -/
structure Block.Inv (c : Config) (k : Block) : Prop where
  /-- R12: AwaitingStart if and only if `rx_count = 0`. -/
  awaiting_iff : k.rxState = .awaitingStart ↔ k.rxCount = 0
  /-- R12, R116: `rx_count` never exceeds `MAX_FRAME`. -/
  count_le : k.rxCount.toNat ≤ c.maxFrame
  /-- R12: InFrame, `rxbuf[0] = START`. -/
  start_first : k.rxState = .inFrame → k.rxbuf.read 0 = c.start
  /-- R110, R122: a frame in flight has not reached its expected END offset. -/
  before_end : k.rxState = .inFrame → 3 ≤ k.rxCount.toNat → k.rxCount.toNat < (k.rxbuf.read 2).toNat + 5
  /-- R10: `0 .. N_MAX`. -/
  rxf_len_le : k.rxfLen.toNat ≤ c.nMax
  /-- R10: `0` or `5 .. MAX_FRAME`. -/
  txf_len_range : k.txfLen = 0 ∨ 5 ≤ k.txfLen.toNat ∧ k.txfLen.toNat ≤ c.maxFrame
  /-- R102: the encoded frame is valid. -/
  txf_valid : k.txfLen ≠ 0 → validFrame c (k.txf.readRange 0 k.txfLen.toNat)
  rxbuf_fits : k.rxbuf.Fits c.maxFrame
  rxf_payload_fits : k.rxfPayload.Fits c.nMax
  txp_fits : k.txp.Fits c.nMax
  txf_fits : k.txf.Fits c.maxFrame
  /-- R10: one channel for each `ch < N_CH`. -/
  channel_count : k.channels.length = c.nCh
  /-- R19: percents stay in 0 to 100. -/
  channel_range : ∀ x ∈ k.channels, x.target.toNat ≤ 100 ∧ x.actual.toNat ≤ 100
  /-- R20, R159: under emergency stop every target and every actual is `SAFE`. -/
  estop_safe : k.estop = true → ∀ x ∈ k.channels, x.target = Config.safe ∧ x.actual = Config.safe

/-- The invariant of the whole state: a well-formed instance, and its block's invariant. -/
structure State.Inv (s : State) : Prop where
  config : s.cfg.wf = true
  block : Block.Inv s.cfg s.blk

/-! Bytes fed to the parser, each with its `now`. -/

/-- What the host presents to feed bytes, one `RXFEED` per byte (R119, R207). -/
def rxEvents (bs : List (Byte × Time)) : List PortEvent :=
  bs.map fun p => .operation (encode (.rxfeed p.1)) p.2

/-- After a byte fed at `t`, every gap between consecutive bytes is at most `T_TIMEOUT` ticks (R118, R124). -/
def pacedFrom (c : Config) : Time → List (Byte × Time) → Bool
  | _, [] => true
  | t, p :: bs => decide ((p.2 - t).toNat ≤ c.tTimeout) && pacedFrom c p.2 bs

/-- Every gap between consecutive bytes is at most `T_TIMEOUT` ticks (R124). -/
def paced (c : Config) : List (Byte × Time) → Bool
  | [] => true
  | p :: bs => pacedFrom c p.2 bs

/-! The duties of the host. -/

/-- An operation word of `RXFEED` or `RXPOLL`, the operations that look at `now` (R24). -/
def looksAtNow (w : Word) : Bool := opwCode w == 0x1 || opwCode w == 0x2

/-- R206: fewer than `2^31` ticks, modulo `2^32`, between consecutive `RXFEED`/`RXPOLL` operations; `last` is the `now`
of the last one, if any. -/
def HostDuty.clock : Option Time → List PortEvent → Bool
  | _, [] => true
  | last, .resetPin :: es => HostDuty.clock last es
  | last, .operation w t :: es =>
    if looksAtNow w then
      (last.all fun t0 => decide ((t - t0).toNat < 2 ^ 31)) && HostDuty.clock (some t) es
    else HostDuty.clock last es

/-- The bytes fed by `RXFEED` among the presented operations, in order. -/
def bytesFed (es : List PortEvent) : List Byte :=
  es.filterMap fun e =>
    match e with
    | .operation w _ => if opwCode w == 0x1 then some (opwByte w) else none
    | .resetPin => none

/-- R207: every byte the link delivered is fed exactly once and in arrival order. -/
def HostDuty.bytes (delivered : List Byte) (es : List PortEvent) : Bool := bytesFed es == delivered

/-- R208: exactly one `RLADV` among the operations of a control cycle. -/
def HostDuty.oneAdvance (cycle : List Instr) : Bool := cycle.count .rladv == 1

/-- R209: in a control cycle no `RLSET`, whoever asked for it, stands after the `RLADV`. -/
def HostDuty.targetsFirst (cycle : List Instr) : Bool :=
  (cycle.dropWhile fun i => i != .rladv).all fun i =>
    match i with
    | .rlset _ _ => false
    | _ => true

/-- Who asks the host for an `RLSET` (44_ramp_limiter.md R162). The block never knows. -/
inductive TargetWriter where
  /-- The Command Dispatcher, for a received command. -/
  | dispatcher
  /-- The Plant State Machine. -/
  | plantStateMachine
  /-- The interlock engine, forcing the safe value. -/
  | interlock
  deriving DecidableEq, Repr

/-- An operation of a control cycle and, for an `RLSET`, its writer; the writer of any other operation has no meaning. -/
structure CycleOp where
  writer : TargetWriter
  op : Instr
  deriving DecidableEq, Repr

/-- An `RLSET` the interlock engine asked for. -/
def CycleOp.isForced (o : CycleOp) : Bool :=
  match o.op with
  | .rlset _ _ => o.writer == .interlock
  | _ => false

/-- R209: after a forced `RLSET` no command-sourced or state-machine `RLSET` follows in the cycle, and a forced `RLSET`
writes `SAFE`. `forced` says whether one has come. -/
def HostDuty.forcedLast : Bool → List CycleOp → Bool
  | _, [] => true
  | forced, o :: os =>
    (match o.op with
      | .rlset _ val => if o.writer = .interlock then val == 0 else !forced
      | _ => true) && HostDuty.forcedLast (forced || o.isForced) os

/-- R162, R209: each channel whose interlock condition fails in this cycle gets a forced `RLSET ch, 0` before the
`RLADV`. -/
def HostDuty.failingForced (failing : List (BitVec 4)) (cycle : List CycleOp) : Bool :=
  failing.all fun ch => (cycle.takeWhile fun o => o.op != .rladv).any fun o => o == ⟨.interlock, .rlset ch 0⟩

/-- R209 for one control cycle; `failing` are the channels whose interlock condition fails in it. An `ESTOP` may stand
anywhere. -/
def HostDuty.targetOrder (failing : List (BitVec 4)) (cycle : List CycleOp) : Bool :=
  HostDuty.targetsFirst (cycle.map CycleOp.op) && HostDuty.forcedLast false cycle && HostDuty.failingForced failing cycle

/-- R209 over a run of control cycles, each with the channels that fail in it: the conditions are evaluated in every cycle
afresh, and the forced writes repeated in every cycle in which they fail. -/
def HostDuty.interlockCycles (cycles : List (List (BitVec 4) × List CycleOp)) : Bool :=
  cycles.all fun p => HostDuty.targetOrder p.1 p.2

/-- R128: one invocation of the polling loop feeds at most `RX_BURST_MAX` bytes. -/
def HostDuty.burst (c : Config) (invocation : List Instr) : Bool :=
  invocation.countP (fun i =>
    match i with
    | .rxfeed _ => true
    | _ => false) ≤ c.host.rxBurstMax

end Machine

end Sys2Proof
end

