-- ==== Sys2Proof/Certificates/Slice0/Obligations.lean ====
section
/-! DEFINITION. The statements for the provers. In each, `s.after k r` is the state `s` with its block at `k` and `r` added
to the results: parameters, `now` and the host's further inputs as they were. -/

open Sys2Proof Sys2Proof.Machine

/-! Encoding. -/

/-- No bit an operation uses is lost by the encoder or the decoder: decoding an encoded operation gives it back, and a
word that decodes to an operation agrees with its encoding on every bit the operation looks at, while the bits it
ignores are encoded as 0. -/
def Obligations.DecodeAndEncodeAgree : Prop :=
  (∀ i : Instr, decode (encode i) = .ok i) ∧
    ∀ (w : Word) (i : Instr), decode w = .ok i → encode i = w &&& i.usedBits

/-- R77: decoding is total, and the operation decoded is the one of the only row whose `match` and `mask` fit. -/
def Obligations.EveryWordSelectsOneRow : Prop :=
  ∀ w : Word, ∃ (i : Instr) (row : OpcodeRow), decode w = .ok i ∧ row ∈ opcodeRows ∧ row.mnemonic = i.mnemonic ∧
    ∀ row' ∈ opcodeRows, w &&& row'.mask = row'.pattern ↔ row' = row

/-- R78: two words that agree on the bits an operation uses are the same operation. -/
def Obligations.UnusedFieldsAreIgnored : Prop :=
  ∀ (w w' : Word) (i : Instr), decode w = .ok i → w' &&& i.usedBits = w &&& i.usedBits → decode w' = .ok i

/-- Words written out from R76 and R77, and what they decode to. -/
def Obligations.WrittenWordsDecode : Prop :=
  decode 0b0001_0000_11111111_00000001_00000010 = .ok (.rxfeed 0x02) ∧
  decode 0b0100_0000_00000111_00000000_01010101 = .ok (.txenc 7 0x55) ∧
  decode 0b0011_0000_00000011_00000000_01000100 = .ok (.txpwr 3 0x44) ∧
  decode 0b0111_0000_00000001_00000000_00000000 = .ok (.csrrd 1) ∧
  decode 0b1000_0001_00000000_11111111_11111011 = .ok (.rlset 1 (BitVec.ofInt 16 (-5))) ∧
  decode 0b1010_0010_00000000_00000000_00000000 = .ok (.rlrd 2) ∧
  decode 0b1001_1010_10111100_11011110_11110000 = .ok .rladv ∧
  decode 0b1110_0001_00100011_01000101_01100111 = .ok .reservedE

/-- R80, with the codes of R81 and R82: the 64-bit packing of a result record. -/
def Obligations.ResultPacking : Prop :=
  ∀ r : Res, (packRes r).toNat =
    r.data.toNat +
      2 ^ 32 * (match r.st with
        | .done => 0
        | .complete => 1
        | .invalid => 2
        | .refused => 3) +
      2 ^ 36 * (match r.reason with
        | .none => 0
        | .timeout => 1
        | .overflow => 2
        | .badEnd => 3
        | .checksum => 4
        | .illegalOp => 8
        | .badIndex => 9
        | .badLength => 10
        | .badChannel => 11)

/-! The step. -/

/-- The operation word at the head of what the host presents is decoded and performed, with its `now` sampled and that
event taken from the inputs (the list of inputs is the model's choice, log entry 1). -/
def Obligations.StepPerformsPresentedOperation : Prop :=
  (∀ (s : State) (w : Word) (t : Time) (rest : List PortEvent) (i : Instr),
    s.inputs = .operation w t :: rest → decode w = .ok i →
      step s = exec i { s with inputs := rest, now := t }) ∧
  ∀ (s : State) (w : Nat) (i : Instr), decode (BitVec.ofNat 32 w) = .ok i →
    step (s.withFetchWord 32 w) = exec i s

/-- The reset pin puts every field of the block at its reset value and returns nothing (R200); with nothing presented the
block does nothing (R201; the list of inputs is the model's, log entries 1 and 6). -/
def Obligations.ResetPinAndIdle : Prop :=
  (∀ (s : State) (rest : List PortEvent), s.inputs = .resetPin :: rest →
    step s = .next { s with inputs := rest, blk := Block.reset s.cfg }) ∧
  ∀ s : State, s.inputs = [] → step s = .next s

/-- R4, R180: from every state that meets the invariant a step answers a next state; an operation returns exactly one
result, and nothing else does (the lists of inputs and results are the model's, log entries 1 and 2). -/
def Obligations.StepAlwaysCompletes : Prop :=
  ∀ s : State, s.Inv → ∃ t, step s = .next t ∧
    match s.inputs with
    | [] => t.results = s.results
    | .resetPin :: rest => t.inputs = rest ∧ t.results = s.results
    | .operation _ now :: rest => t.inputs = rest ∧ t.now = now ∧ ∃ r, t.results = s.results ++ [r]

/-- Every step keeps the invariant (R12, R19, R20, R102, R116; the canonical form of the buffers). -/
def Obligations.StepKeepsInvariant : Prop :=
  ∀ s t : State, s.Inv → step s = .next t → t.Inv

/-- Every well-formed instance meets the invariant after reset, the model's reset state among them (which
instance that is, is the model's choice, log entry 4). -/
def Obligations.ResetMeetsInvariant : Prop :=
  State.reset.Inv ∧ ∀ c : Config, c.wf = true → (State.resetOf c).Inv

/-- R6: no step changes a parameter. -/
def Obligations.ParametersNeverChange : Prop :=
  ∀ s t : State, step s = .next t → t.cfg = s.cfg

/-- R27, R200: what the reset pin and `SRESET` leave, from any state: every field of the block (buffers through their
elements), and every status register through the map. -/
def Obligations.ResetValues : Prop :=
  ∀ s t : State, (exec .sreset s = .next t ∨ ∃ rest, s.inputs = .resetPin :: rest ∧ step s = .next t) →
    t.blk.rxState = .awaitingStart ∧ t.blk.rxCount = 0 ∧ t.blk.rxLast = 0 ∧
    t.blk.cntFraming = 0 ∧ t.blk.cntChecksum = 0 ∧
    t.blk.rxfValid = false ∧ t.blk.rxfCmd = 0 ∧ t.blk.rxfLen = 0 ∧ t.blk.txfLen = 0 ∧ t.blk.estop = false ∧
    (∀ a, t.blk.rxbuf.read a = 0 ∧ t.blk.rxfPayload.read a = 0 ∧ t.blk.txp.read a = 0 ∧ t.blk.txf.read a = 0) ∧
    t.blk.channels.length = s.cfg.nCh ∧
    (∀ x ∈ t.blk.channels, x.target = 0 ∧ x.actual = 0) ∧
    (∀ i ≤ 5, t.blk.statusReg s.cfg i = some 0) ∧
    (s.cfg.wf = true → ∃ sentinels limits timeout : Word,
      t.blk.statusReg s.cfg 0x08 = some sentinels ∧ t.blk.statusReg s.cfg 0x09 = some limits ∧
      t.blk.statusReg s.cfg 0x0A = some timeout ∧
      sentinels.toNat = s.cfg.start.toNat + 256 * s.cfg.endByte.toNat ∧
      limits.toNat = s.cfg.nMax + 256 * (s.cfg.nMax + 5) + 65536 * s.cfg.nCh ∧ timeout.toNat = s.cfg.tTimeout ∧
      ∀ (ch : Nat) (r : Ramp), s.cfg.ramps[ch]? = some r →
        ∃ w : Word, t.blk.statusReg s.cfg (0x10 + ch) = some w ∧ w.toNat = r.up + 256 * r.down)

/-! System operations. -/

/-- R170: `NOP`, whatever the other fields. -/
def Obligations.NopChangesNothing : Prop :=
  (∀ w : Word, opwCode w = 0x0 → decode w = .ok .nop) ∧
    ∀ s : State, exec .nop s = .next (s.after s.blk ⟨.done, .none, 0⟩)

/-- R172: `SRESET`, whatever the other fields, leaves the block as the reset pin does. -/
def Obligations.SresetResetsTheBlock : Prop :=
  (∀ w : Word, opwCode w = 0xF → decode w = .ok .sreset) ∧
    ∀ s : State, exec .sreset s = .next (s.after (Block.reset s.cfg) ⟨.done, .none, 0⟩)

/-- R79, R173: the reserved codes return `(REFUSED, ILLEGAL_OP, 0)` and change no state. -/
def Obligations.ReservedCodesAreRefused : Prop :=
  (∀ w : Word, opwCode w = 0xD → decode w = .ok .reservedD) ∧
  (∀ w : Word, opwCode w = 0xE → decode w = .ok .reservedE) ∧
    ∀ s : State, exec .reservedD s = .next (s.after s.blk ⟨.refused, .illegalOp, 0⟩) ∧
      exec .reservedE s = .next (s.after s.blk ⟨.refused, .illegalOp, 0⟩)

/-! Buffer and status access. -/

/-- R140: `TXPWR` stores one byte of `txp` and nothing else, or refuses the index. -/
def Obligations.TxpwrStoresOneByte : Prop :=
  (∀ w : Word, opwCode w = 0x3 → decode w = .ok (.txpwr (opwIdx w) (opwByte w))) ∧
  (∀ (s : State) (idx byte : Byte), s.blk.txp.wf = true → idx.toNat < s.cfg.nMax →
    ∃ m : Memory, exec (.txpwr idx byte) s = .next (s.after { s.blk with txp := m } ⟨.done, .none, 0⟩) ∧
      ∀ a, m.read a = if a = idx.toNat then byte else s.blk.txp.read a) ∧
  ∀ (s : State) (idx byte : Byte), s.cfg.nMax ≤ idx.toNat →
    exec (.txpwr idx byte) s = .next (s.after s.blk ⟨.refused, .badIndex, 0⟩)

/-- R142: `TXFRD` reads one byte of the encoded frame, or refuses the index. -/
def Obligations.TxfrdReadsTheFrame : Prop :=
  (∀ w : Word, opwCode w = 0x5 → decode w = .ok (.txfrd (opwIdx w))) ∧
  (∀ (s : State) (idx : Byte), s.Inv → idx.toNat < s.blk.txfLen.toNat →
    exec (.txfrd idx) s =
      .next (s.after s.blk ⟨.done, .none, BitVec.ofNat 32 (s.blk.txf.read idx.toNat).toNat⟩)) ∧
  ∀ (s : State) (idx : Byte), s.blk.txfLen.toNat ≤ idx.toNat →
    exec (.txfrd idx) s = .next (s.after s.blk ⟨.refused, .badIndex, 0⟩)

/-- R143: `RXFRD` reads one payload byte of the latched frame, or refuses the index. -/
def Obligations.RxfrdReadsTheLatch : Prop :=
  (∀ w : Word, opwCode w = 0x6 → decode w = .ok (.rxfrd (opwIdx w))) ∧
  (∀ (s : State) (idx : Byte), s.Inv → s.blk.rxfValid = true → idx.toNat < s.blk.rxfLen.toNat →
    exec (.rxfrd idx) s =
      .next (s.after s.blk ⟨.done, .none, BitVec.ofNat 32 (s.blk.rxfPayload.read idx.toNat).toNat⟩)) ∧
  ∀ (s : State) (idx : Byte), s.blk.rxfValid = false ∨ s.blk.rxfLen.toNat ≤ idx.toNat →
    exec (.rxfrd idx) s = .next (s.after s.blk ⟨.refused, .badIndex, 0⟩)

/-- R22, R144: every entry of the status map, as a number, in a well-formed instance; every other index is refused. -/
def Obligations.CsrrdReadsTheStatusMap : Prop :=
  (∀ w : Word, opwCode w = 0x7 → decode w = .ok (.csrrd (opwIdx w))) ∧
  (∀ s : State, s.cfg.wf = true →
    ∃ v : Byte → Word, (∀ idx : Byte,
        (idx.toNat ≤ 5 ∨ 8 ≤ idx.toNat ∧ idx.toNat ≤ 0xA ∨ 0x10 ≤ idx.toNat ∧ idx.toNat < 0x10 + s.cfg.nCh) →
        exec (.csrrd idx) s = .next (s.after s.blk ⟨.done, .none, v idx⟩)) ∧
      (v 0x00).toNat = (if s.blk.rxState = .inFrame then 1 else 0) + (if s.blk.rxfValid = true then 2 else 0)
        + (if s.blk.estop = true then 4 else 0) + 256 * s.blk.rxCount.toNat ∧
      (v 0x01).toNat = s.blk.cntFraming.toNat ∧
      (v 0x02).toNat = s.blk.cntChecksum.toNat ∧
      (v 0x03).toNat = s.blk.rxfCmd.toNat + 256 * s.blk.rxfLen.toNat ∧
      (v 0x04).toNat = s.blk.txfLen.toNat ∧
      v 0x05 = s.blk.rxLast ∧
      (v 0x08).toNat = s.cfg.start.toNat + 256 * s.cfg.endByte.toNat ∧
      (v 0x09).toNat = s.cfg.nMax + 256 * (s.cfg.nMax + 5) + 65536 * s.cfg.nCh ∧
      (v 0x0A).toNat = s.cfg.tTimeout ∧
      ∀ (ch : Nat) (r : Ramp), s.cfg.ramps[ch]? = some r →
        (v (BitVec.ofNat 8 (0x10 + ch))).toNat = r.up + 256 * r.down) ∧
  ∀ (s : State) (idx : Byte),
    idx.toNat = 6 ∨ idx.toNat = 7 ∨ 0xB ≤ idx.toNat ∧ idx.toNat ≤ 0xF ∨ 0x10 + s.cfg.nCh ≤ idx.toNat →
    exec (.csrrd idx) s = .next (s.after s.blk ⟨.refused, .badIndex, 0⟩)

/-! The digest and the frame. -/

/-- The examples of R93 and the rows V-D of the test vectors, under the three named digests. -/
def Obligations.DigestExamples : Prop :=
  crc8 [] = 0x00 ∧ crc8 [0x01] = 0x07 ∧ crc8 [0xFF] = 0xF3 ∧ crc8 [0x50, 0x00] = 0x0C ∧
  crc8 [0x31, 0x32, 0x33, 0x34, 0x35, 0x36, 0x37, 0x38, 0x39] = 0xF4 ∧
  crc8 [0x01, 0x02, 0x03] = 0x48 ∧ crc8 [0x03, 0x02, 0x01] = 0x90 ∧
  xor8 [0x50, 0x00] = 0x50 ∧ sum8 [0x50, 0x00] = 0x50 ∧
  xor8 [0x55, 0x07, 0x00, 0x00, 0x7A, 0x44, 0x02, 0x02, 0x02] = 0x6E ∧
  sum8 [0x55, 0x07, 0x00, 0x00, 0x7A, 0x44, 0x02, 0x02, 0x02] = 0x20

/-- The three named digests have property P2, at every length (R91, R93, R94). -/
def Obligations.NamedDigestsDetectOneChangedByte : Prop :=
  ∀ c : Config, c.digestSel = .crc8 ∨ c.digestSel = .xor8 ∨ c.digestSel = .sum8 →
    ∀ (front back : List Byte) (x y : Byte), x ≠ y →
      digest c (front ++ x :: back) ≠ digest c (front ++ y :: back)

/-- R60, R100: every byte of `encode(command, payload)` at its offset. -/
def Obligations.FrameLayout : Prop :=
  ∀ (c : Config) (command : Byte) (payload : List Byte), payload.length ≤ c.nMax → c.nMax ≤ 250 →
    let f := encodeFrame c command payload
    f.length = payload.length + 5 ∧ f[0]? = some c.start ∧ f[1]? = some command ∧
      (∃ len : Byte, f[2]? = some len ∧ len.toNat = payload.length ∧
        f[3 + payload.length]? = some (digest c (command :: len :: payload))) ∧
      (∀ i < payload.length, f[3 + i]? = payload[i]?) ∧
      f[4 + payload.length]? = some c.endByte

/-- R68: an encoded frame is valid and decodes to the pair it was encoded from. -/
def Obligations.EncodedFramesDecodeBack : Prop :=
  ∀ (c : Config) (command : Byte) (payload : List Byte), c.wf = true → encodablePair c command payload →
    validFrame c (encodeFrame c command payload) ∧ decodeFrame (encodeFrame c command payload) = (command, payload)

/-- The other way round: a valid frame is the encoding of what it decodes to. -/
def Obligations.ValidFramesAreEncodings : Prop :=
  ∀ (c : Config) (f : List Byte), validFrame c f →
    (decodeFrame f).2.length ≤ c.nMax ∧ encodeFrame c (decodeFrame f).1 (decodeFrame f).2 = f

/-- R74, R75: each field of the request and of the acknowledgement is at its offset, the quantity and the derived value
least significant byte first; a request payload reads back, and any other length is no request. -/
def Obligations.TelemetryPayloadLayout : Prop :=
  (∀ q : UpdateRequest, ∃ b0 b1 b2 b3 : Byte,
    updateRequestPayload q = [b0, b1, b2, b3, q.status1, q.status2, q.status3] ∧
      q.quantity.toNat = b0.toNat + 256 * b1.toNat + 65536 * b2.toNat + 16777216 * b3.toNat) ∧
  (∀ q : UpdateRequest, (updateRequestPayload q).length = 7 ∧ readUpdateRequest (updateRequestPayload q) = some q) ∧
  (∀ p : List Byte, p.length ≠ 7 → readUpdateRequest p = none) ∧
  ∀ (d : Word) (sv : Byte) (q : UpdateRequest), ∃ b0 b1 b2 b3 : Byte,
    updateAckPayload d sv q = [b0, b1, b2, b3, sv, q.status1, q.status2, q.status3] ∧
      d.toNat = b0.toNat + 256 * b1.toNat + 65536 * b2.toNat + 16777216 * b3.toNat

/-- R101: `TXENC` writes the frame of the staged payload to `txf` and its length to `txf_len`, and nothing else; elements
beyond the frame keep their values. A length above `N_MAX` is refused. -/
def Obligations.TxencEncodesTheStagedPayload : Prop :=
  (∀ w : Word, opwCode w = 0x4 → decode w = .ok (.txenc (opwIdx w) (opwByte w))) ∧
  (∀ (s : State) (len cmd : Byte), s.Inv → len.toNat ≤ s.cfg.nMax →
    ∃ (m : Memory) (n : Byte),
      exec (.txenc len cmd) s =
        .next (s.after { s.blk with txf := m, txfLen := n } ⟨.done, .none, BitVec.ofNat 32 (len.toNat + 5)⟩) ∧
      n.toNat = len.toNat + 5 ∧
      m.readRange 0 (len.toNat + 5) = encodeFrame s.cfg cmd (s.blk.txp.readRange 0 len.toNat) ∧
      ∀ a, len.toNat + 5 ≤ a → m.read a = s.blk.txf.read a) ∧
  ∀ (s : State) (len cmd : Byte), s.cfg.nMax < len.toNat →
    exec (.txenc len cmd) s = .next (s.after s.blk ⟨.refused, .badLength, 0⟩)

/-- `SEND cmd, payload` from any good state leaves the frame of that pair in `txf`, whatever was staged before
(20_memory.md R46(a), 30_encoding.md R85). -/
def Obligations.SendEncodesThePayload : Prop :=
  ∀ (s : State) (cmd : Byte) (payload : List Byte), s.Inv → payload.length ≤ s.cfg.nMax →
    s.inputs = traceOf (sendLines cmd payload) →
    ∃ t, Host.Core.run core (payload.length + 1) s = .next t ∧
      t.blk.txfLen.toNat = payload.length + 5 ∧
      t.blk.txf.readRange 0 (payload.length + 5) = encodeFrame s.cfg cmd payload

/-! The parser: one byte. -/

/-- R113: a byte in AwaitingStart. -/
def Obligations.RxfeedInAwaitingStart : Prop :=
  (∀ (s : State) (b : Byte), s.blk.rxState = .awaitingStart → b ≠ s.cfg.start →
    exec (.rxfeed b) s = .next (s.after { s.blk with rxLast := s.now } ⟨.incomplete, .none, 0⟩)) ∧
  ∀ s : State, s.blk.rxState = .awaitingStart → s.blk.rxbuf.wf = true →
    ∃ m : Memory,
      exec (.rxfeed s.cfg.start) s =
        .next (s.after { s.blk with rxLast := s.now, rxState := .inFrame, rxCount := 1, rxbuf := m }
          ⟨.incomplete, .none, 0⟩) ∧
      ∀ a, m.read a = if a = 0 then s.cfg.start else s.blk.rxbuf.read a

/-- R117, R118: a byte that arrives InFrame more than `T_TIMEOUT` ticks after the last one discards the frame in flight,
counts a framing error, and is itself processed in AwaitingStart. -/
def Obligations.RxfeedAfterTimeout : Prop :=
  (∀ (s : State) (b : Byte), s.blk.rxState = .inFrame → s.cfg.tTimeout < (s.now - s.blk.rxLast).toNat →
    b ≠ s.cfg.start →
    exec (.rxfeed b) s =
      .next (s.after
        { s.blk with
          rxLast := s.now, rxState := .awaitingStart, rxCount := 0,
          cntFraming := BitVec.ofNat 16 (min 0xFFFF (s.blk.cntFraming.toNat + 1)) }
        ⟨.invalid, .timeout, 0⟩)) ∧
  ∀ s : State, s.blk.rxState = .inFrame → s.cfg.tTimeout < (s.now - s.blk.rxLast).toNat → s.blk.rxbuf.wf = true →
    ∃ m : Memory,
      exec (.rxfeed s.cfg.start) s =
        .next (s.after
          { s.blk with
            rxLast := s.now, rxState := .inFrame, rxCount := 1, rxbuf := m,
            cntFraming := BitVec.ofNat 16 (min 0xFFFF (s.blk.cntFraming.toNat + 1)) }
          ⟨.invalid, .timeout, 0⟩) ∧
      ∀ a, m.read a = if a = 0 then s.cfg.start else s.blk.rxbuf.read a

/-- A byte that finds `rxbuf` full, not timed out: the frame is discarded, a framing error counted, the byte consumed. -/
def Obligations.RxfeedOverflow : Prop :=
  ∀ (s : State) (b : Byte), s.blk.rxState = .inFrame → (s.now - s.blk.rxLast).toNat ≤ s.cfg.tTimeout →
    s.blk.rxCount.toNat = s.cfg.nMax + 5 →
    exec (.rxfeed b) s =
      .next (s.after
        { s.blk with
          rxLast := s.now, rxState := .awaitingStart, rxCount := 0,
          cntFraming := BitVec.ofNat 16 (min 0xFFFF (s.blk.cntFraming.toNat + 1)) }
        ⟨.invalid, .overflow, 0⟩)

/-- A byte InFrame that does not reach the expected END offset is stored at offset `rx_count`, whatever its value (R112).
The LENGTH byte is `rxbuf[2]`, or the byte itself when it is the third. -/
def Obligations.RxfeedAccumulates : Prop :=
  ∀ (s : State) (b : Byte), s.Inv → s.blk.rxState = .inFrame →
    (s.now - s.blk.rxLast).toNat ≤ s.cfg.tTimeout → s.blk.rxCount.toNat < s.cfg.nMax + 5 →
    (4 ≤ s.blk.rxCount.toNat → s.blk.rxCount.toNat + 1 ≠ (s.blk.rxbuf.read 2).toNat + 5) →
    ∃ (m : Memory) (n : Byte),
      exec (.rxfeed b) s =
        .next (s.after { s.blk with rxLast := s.now, rxCount := n, rxbuf := m } ⟨.incomplete, .none, 0⟩) ∧
      n.toNat = s.blk.rxCount.toNat + 1 ∧
      ∀ a, m.read a = if a = s.blk.rxCount.toNat then b else s.blk.rxbuf.read a

/-- R115(a): a byte at the expected END offset that is not `END` discards the frame, whatever the checksum; the byte is
consumed, be it `START`. -/
def Obligations.RxfeedBadEnd : Prop :=
  ∀ (s : State) (b : Byte), s.Inv → s.blk.rxState = .inFrame →
    (s.now - s.blk.rxLast).toNat ≤ s.cfg.tTimeout → s.blk.rxCount.toNat < s.cfg.nMax + 5 →
    4 ≤ s.blk.rxCount.toNat → s.blk.rxCount.toNat + 1 = (s.blk.rxbuf.read 2).toNat + 5 → b ≠ s.cfg.endByte →
    ∃ m : Memory,
      exec (.rxfeed b) s =
        .next (s.after
          { s.blk with
            rxLast := s.now, rxState := .awaitingStart, rxCount := 0, rxbuf := m,
            cntFraming := BitVec.ofNat 16 (min 0xFFFF (s.blk.cntFraming.toNat + 1)) }
          ⟨.invalid, .badEnd, 0⟩) ∧
      ∀ a, m.read a = if a = s.blk.rxCount.toNat then b else s.blk.rxbuf.read a

/-- R115(b): `END` at the expected offset and a CHECKSUM byte that differs from the digest of COMMAND, LENGTH and PAYLOAD:
the frame is discarded and a checksum error counted; the latch is untouched. -/
def Obligations.RxfeedBadChecksum : Prop :=
  ∀ s : State, s.Inv → s.blk.rxState = .inFrame →
    (s.now - s.blk.rxLast).toNat ≤ s.cfg.tTimeout → s.blk.rxCount.toNat < s.cfg.nMax + 5 →
    4 ≤ s.blk.rxCount.toNat → s.blk.rxCount.toNat + 1 = (s.blk.rxbuf.read 2).toNat + 5 →
    digest s.cfg (s.blk.rxbuf.readRange 1 (s.blk.rxCount.toNat - 2)) ≠ s.blk.rxbuf.read (s.blk.rxCount.toNat - 1) →
    ∃ m : Memory,
      exec (.rxfeed s.cfg.endByte) s =
        .next (s.after
          { s.blk with
            rxLast := s.now, rxState := .awaitingStart, rxCount := 0, rxbuf := m,
            cntChecksum := BitVec.ofNat 16 (min 0xFFFF (s.blk.cntChecksum.toNat + 1)) }
          ⟨.invalid, .checksum, 0⟩) ∧
      ∀ a, m.read a = if a = s.blk.rxCount.toNat then s.cfg.endByte else s.blk.rxbuf.read a

/-- R114: `END` at the expected offset and the CHECKSUM byte equal to the digest: the frame goes into the latch, the
parser returns to AwaitingStart, and `COMPLETE` carries COMMAND and LENGTH. No counter changes. -/
def Obligations.RxfeedCompletesAFrame : Prop :=
  ∀ s : State, s.Inv → s.blk.rxState = .inFrame →
    (s.now - s.blk.rxLast).toNat ≤ s.cfg.tTimeout → s.blk.rxCount.toNat < s.cfg.nMax + 5 →
    4 ≤ s.blk.rxCount.toNat → s.blk.rxCount.toNat + 1 = (s.blk.rxbuf.read 2).toNat + 5 →
    digest s.cfg (s.blk.rxbuf.readRange 1 (s.blk.rxCount.toNat - 2)) = s.blk.rxbuf.read (s.blk.rxCount.toNat - 1) →
    ∃ (m p : Memory) (d : Word),
      exec (.rxfeed s.cfg.endByte) s =
        .next (s.after
          { s.blk with
            rxLast := s.now, rxState := .awaitingStart, rxCount := 0, rxbuf := m,
            rxfValid := true, rxfCmd := s.blk.rxbuf.read 1, rxfLen := s.blk.rxbuf.read 2, rxfPayload := p }
          ⟨.complete, .none, d⟩) ∧
      (∀ a, m.read a = if a = s.blk.rxCount.toNat then s.cfg.endByte else s.blk.rxbuf.read a) ∧
      (∀ a, p.read a =
        if a < (s.blk.rxbuf.read 2).toNat then s.blk.rxbuf.read (3 + a) else s.blk.rxfPayload.read a) ∧
      d.toNat = (s.blk.rxbuf.read 1).toNat + 256 * (s.blk.rxbuf.read 2).toNat

/-- R120, R121: `RXPOLL` is the timeout test alone; it does not write `rx_last`. -/
def Obligations.RxpollTestsTheTimeout : Prop :=
  (∀ w : Word, opwCode w = 0x2 → decode w = .ok .rxpoll) ∧
  (∀ s : State, s.blk.rxState = .inFrame → s.cfg.tTimeout < (s.now - s.blk.rxLast).toNat →
    exec .rxpoll s =
      .next (s.after
        { s.blk with
          rxState := .awaitingStart, rxCount := 0,
          cntFraming := BitVec.ofNat 16 (min 0xFFFF (s.blk.cntFraming.toNat + 1)) }
        ⟨.invalid, .timeout, 0⟩)) ∧
  ∀ s : State, s.blk.rxState = .awaitingStart ∨ (s.now - s.blk.rxLast).toNat ≤ s.cfg.tTimeout →
    exec .rxpoll s = .next (s.after s.blk ⟨.incomplete, .none, 0⟩)

/-- R119: `RXFEED` accepts every byte in every good state, returns one of the results it may return, stamps the time, and
leaves the encoder and the limiter alone; the latch changes only on `COMPLETE`. -/
def Obligations.RxfeedAcceptsEveryByte : Prop :=
  (∀ w : Word, opwCode w = 0x1 → decode w = .ok (.rxfeed (opwByte w))) ∧
  ∀ (s : State) (b : Byte), s.Inv → ∃ (k : Block) (r : Res), exec (.rxfeed b) s = .next (s.after k r) ∧
    (r = ⟨.incomplete, .none, 0⟩ ∨ (r.st = .complete ∧ r.reason = .none ∧
        r.data.toNat = k.rxfCmd.toNat + 256 * k.rxfLen.toNat) ∨
      r = ⟨.invalid, .timeout, 0⟩ ∨ r = ⟨.invalid, .overflow, 0⟩ ∨ r = ⟨.invalid, .badEnd, 0⟩ ∨
      r = ⟨.invalid, .checksum, 0⟩) ∧
    k.rxLast = s.now ∧
    k.txp = s.blk.txp ∧ k.txf = s.blk.txf ∧ k.txfLen = s.blk.txfLen ∧
    k.channels = s.blk.channels ∧ k.estop = s.blk.estop ∧
    (r.st ≠ .complete → k.rxfValid = s.blk.rxfValid ∧ k.rxfCmd = s.blk.rxfCmd ∧ k.rxfLen = s.blk.rxfLen ∧
      k.rxfPayload = s.blk.rxfPayload)

/-! The parser: byte streams. -/

/-- R123: feed any bytes, with any values of `now`, from a good state in AwaitingStart. If the last result is `COMPLETE`,
the bytes fed end in a valid frame, and the latch holds its content. -/
def Obligations.CompleteMeansAValidFrame : Prop :=
  ∀ (s : State) (bs : List (Byte × Time)), s.Inv → s.blk.rxState = .awaitingStart → s.inputs = rxEvents bs →
    ∃ t, Host.Core.run core bs.length s = .next t ∧ t.results.length = s.results.length + bs.length ∧
      ∀ r, bs ≠ [] → t.results.getLast? = some r → r.st = .complete →
        ∃ n, validFrame s.cfg ((bs.map Prod.fst).drop n) ∧ t.blk.rxfValid = true ∧
          (t.blk.rxfCmd, t.blk.rxfPayload.readRange 0 t.blk.rxfLen.toNat) = decodeFrame ((bs.map Prod.fst).drop n)

/-- R124: the bytes of an encoded frame, fed from AwaitingStart with no gap above `T_TIMEOUT`, give `INCOMPLETE` up to the
last byte and then `COMPLETE`, with the frame in the latch and the parser back in AwaitingStart. From InFrame, where the
first byte arrives more than `T_TIMEOUT` after the last one fed, the same with `TIMEOUT` as the first result. -/
def Obligations.FramesAreReceived : Prop :=
  (∀ (s : State) (command : Byte) (payload : List Byte) (bs : List (Byte × Time)), s.Inv →
    s.blk.rxState = .awaitingStart → payload.length ≤ s.cfg.nMax →
    bs.map Prod.fst = encodeFrame s.cfg command payload → paced s.cfg bs = true → s.inputs = rxEvents bs →
    ∃ t, Host.Core.run core bs.length s = .next t ∧
      t.results = s.results ++ List.replicate (payload.length + 4) ⟨.incomplete, .none, 0⟩ ++
        [⟨.complete, .none, BitVec.ofNat 32 (command.toNat + 256 * payload.length)⟩] ∧
      t.blk.rxState = .awaitingStart ∧ t.blk.rxfValid = true ∧ t.blk.rxfCmd = command ∧
      t.blk.rxfLen.toNat = payload.length ∧ t.blk.rxfPayload.readRange 0 payload.length = payload ∧
      t.blk.cntFraming = s.blk.cntFraming ∧ t.blk.cntChecksum = s.blk.cntChecksum) ∧
  ∀ (s : State) (command : Byte) (payload : List Byte) (p : Byte × Time) (bs : List (Byte × Time)), s.Inv →
    s.blk.rxState = .inFrame → s.cfg.tTimeout < (p.2 - s.blk.rxLast).toNat → payload.length ≤ s.cfg.nMax →
    (p :: bs).map Prod.fst = encodeFrame s.cfg command payload → paced s.cfg (p :: bs) = true →
    s.inputs = rxEvents (p :: bs) →
    ∃ t, Host.Core.run core (p :: bs).length s = .next t ∧
      t.results = s.results ++ [⟨.invalid, .timeout, 0⟩] ++
        List.replicate (payload.length + 3) ⟨.incomplete, .none, 0⟩ ++
        [⟨.complete, .none, BitVec.ofNat 32 (command.toNat + 256 * payload.length)⟩] ∧
      t.blk.rxState = .awaitingStart ∧ t.blk.rxfValid = true ∧ t.blk.rxfCmd = command ∧
      t.blk.rxfLen.toNat = payload.length ∧ t.blk.rxfPayload.readRange 0 payload.length = payload

/-- R126(a), (b), (c): one byte of a valid frame changed, at the COMMAND, at a PAYLOAD byte, at the CHECKSUM or at the END:
nothing is reported before the last byte, then `CHECKSUM`, or `BAD_END` for the END; the latch is untouched. -/
def Obligations.OneChangedByteIsDetected : Prop :=
  ∀ (s : State) (f : List Byte) (k : Nat) (b : Byte) (bs : List (Byte × Time)), s.Inv → s.cfg.Legal →
    s.blk.rxState = .awaitingStart → validFrame s.cfg f →
    k = 1 ∨ 3 ≤ k → k < f.length → f[k]? ≠ some b →
    bs.map Prod.fst = f.set k b → paced s.cfg bs = true → s.inputs = rxEvents bs →
    ∃ t, Host.Core.run core bs.length s = .next t ∧
      t.results = s.results ++ List.replicate (f.length - 1) ⟨.incomplete, .none, 0⟩ ++
        [⟨.invalid, if k + 1 = f.length then .badEnd else .checksum, 0⟩] ∧
      t.blk.rxState = .awaitingStart ∧ t.blk.rxfValid = s.blk.rxfValid ∧ t.blk.rxfCmd = s.blk.rxfCmd ∧
      t.blk.rxfLen = s.blk.rxfLen ∧ t.blk.rxfPayload = s.blk.rxfPayload

/-- R127: a frame with one COMMAND, PAYLOAD or CHECKSUM byte changed, followed at once by a valid frame: exactly one
`CHECKSUM`, at the end of the first, exactly one `COMPLETE`, at the end of the second, whose content is in the latch. -/
def Obligations.BadFrameDoesNotTaintTheNext : Prop :=
  ∀ (s : State) (f g : List Byte) (k : Nat) (b : Byte) (bs : List (Byte × Time)), s.Inv → s.cfg.Legal →
    s.blk.rxState = .awaitingStart → validFrame s.cfg f → validFrame s.cfg g →
    k = 1 ∨ 3 ≤ k → k + 1 < f.length → f[k]? ≠ some b →
    bs.map Prod.fst = f.set k b ++ g → paced s.cfg bs = true → s.inputs = rxEvents bs →
    ∃ t d, Host.Core.run core bs.length s = .next t ∧
      t.results = s.results ++ List.replicate (f.length - 1) ⟨.incomplete, .none, 0⟩ ++ [⟨.invalid, .checksum, 0⟩] ++
        List.replicate (g.length - 1) ⟨.incomplete, .none, 0⟩ ++ [⟨.complete, .none, d⟩] ∧
      t.blk.rxfValid = true ∧
      (t.blk.rxfCmd, t.blk.rxfPayload.readRange 0 t.blk.rxfLen.toNat) = decodeFrame g

/-- R125(b): from AwaitingStart, bytes none of which is `START` give `INCOMPLETE` each and change nothing but
`rx_last`, at whatever times. -/
def Obligations.GarbageWithoutStartIsDiscarded : Prop :=
  ∀ (s : State) (bs : List (Byte × Time)), s.blk.rxState = .awaitingStart → (∀ p ∈ bs, p.1 ≠ s.cfg.start) →
    s.inputs = rxEvents bs →
    ∃ t, Host.Core.run core bs.length s = .next t ∧
      t.results = s.results ++ List.replicate bs.length ⟨.incomplete, .none, 0⟩ ∧
      t.blk = { s.blk with rxLast := (bs.getLast?.map Prod.snd).getD s.blk.rxLast }

/-- R120: a poll that discards a frame leaves the block, after the next byte, exactly where it would be had the poll not
been made, as long as fewer than `2^32` ticks pass between the last byte and that byte. -/
def Obligations.PollingDoesNotChangeDecoding : Prop :=
  ∀ (s : State) (t1 t2 : Time) (b : Byte) (u v : State), s.blk.rxState = .inFrame →
    s.cfg.tTimeout < (t1 - s.blk.rxLast).toNat →
    (t1 - s.blk.rxLast).toNat + (t2 - t1).toNat < 2 ^ 32 →
    exec .rxpoll { s with now := t1 } = .next u → exec (.rxfeed b) { u with now := t2 } = .next v →
    ∃ v', exec (.rxfeed b) { s with now := t2 } = .next v' ∧ v'.blk = v.blk ∧
      v.results = s.results ++ [⟨.invalid, .timeout, 0⟩, ⟨.incomplete, .none, 0⟩] ∧
      v'.results = s.results ++ [⟨.invalid, .timeout, 0⟩]

/-! The limiter. -/

/-- R150, R151, R159: `RLSET` stores the clamped percent, or `SAFE` under emergency stop, in the channel's target, returns
what it stored, and changes nothing else; a channel that does not exist is refused. -/
def Obligations.RlsetStoresTheClampedTarget : Prop :=
  (∀ w : Word, opwCode w = 0x8 → decode w = .ok (.rlset (opwCh w) (opwVal w))) ∧
  (∀ (s : State) (ch : BitVec 4) (val : BitVec 16), s.blk.channels.length = s.cfg.nCh → ch.toNat < s.cfg.nCh →
    ∃ (v : Byte) (chs : List Channel),
      exec (.rlset ch val) s =
        .next (s.after { s.blk with channels := chs } ⟨.done, .none, BitVec.ofNat 32 v.toNat⟩) ∧
      (v.toNat : Int) = (if s.blk.estop = true then 0 else max 0 (min 100 val.toInt)) ∧
      ∀ i : Nat, chs[i]? =
        if i = ch.toNat then s.blk.channels[i]?.map (fun x => ⟨v, x.actual⟩) else s.blk.channels[i]?) ∧
  ∀ (s : State) (ch : BitVec 4) (val : BitVec 16), s.cfg.nCh ≤ ch.toNat →
    exec (.rlset ch val) s = .next (s.after s.blk ⟨.refused, .badChannel, 0⟩)

/-- R153, R154: `RLADV` moves every channel's `actual` once, by its own rates and toward its target, and changes nothing
else. -/
def Obligations.RladvMovesEveryChannel : Prop :=
  (∀ w : Word, opwCode w = 0x9 → decode w = .ok .rladv) ∧
  ∀ s : State, s.blk.channels.length = s.cfg.nCh →
    ∃ chs : List Channel,
      exec .rladv s = .next (s.after { s.blk with channels := chs } ⟨.done, .none, 0⟩) ∧
      chs.length = s.cfg.nCh ∧
      ∀ (i : Nat) (x : Channel) (r : Ramp), s.blk.channels[i]? = some x → s.cfg.ramps[i]? = some r →
        ∃ y, chs[i]? = some y ∧ y.target = x.target ∧
          y.actual.toNat =
            if x.actual.toNat < x.target.toNat then
              x.actual.toNat + min r.up (x.target.toNat - x.actual.toNat)
            else if x.target.toNat < x.actual.toNat then
              x.actual.toNat - min r.down (x.actual.toNat - x.target.toNat)
            else x.actual.toNat

/-- R155(a), (b), (c): an `RLADV` never overshoots, moves at the bounded rate, and stays in range. -/
def Obligations.RladvNeverOvershoots : Prop :=
  ∀ (s t : State) (i : Nat) (x y : Channel) (r : Ramp), s.Inv → exec .rladv s = .next t →
    s.blk.channels[i]? = some x → t.blk.channels[i]? = some y → s.cfg.ramps[i]? = some r →
    (x.actual.toNat < x.target.toNat → x.actual.toNat < y.actual.toNat ∧ y.actual.toNat ≤ x.target.toNat) ∧
    (x.target.toNat < x.actual.toNat → x.target.toNat ≤ y.actual.toNat ∧ y.actual.toNat < x.actual.toNat) ∧
    (x.actual = x.target → y.actual = x.actual) ∧
    y.actual.toNat ≤ x.actual.toNat + r.up ∧ x.actual.toNat ≤ y.actual.toNat + r.down ∧ y.actual.toNat ≤ 100

/-- R155(d): with the target held, `actual` equals `target` after `n` advances if and only if `n` is at least
`ceil(|target - actual| / rate)`, with the rate of the direction of travel. -/
def Obligations.RampArrivesAfterCeilCycles : Prop :=
  ∀ (s : State) (i n : Nat) (x : Channel) (r : Ramp) (now : Time), s.Inv → s.blk.channels[i]? = some x →
    s.cfg.ramps[i]? = some r → s.inputs = List.replicate n (.operation (encode .rladv) now) →
    ∃ t y, Host.Core.run core n s = .next t ∧ t.blk.channels[i]? = some y ∧ y.target = x.target ∧
      (y.actual = x.target ↔
        (if x.actual.toNat ≤ x.target.toNat then (x.target.toNat - x.actual.toNat + r.up - 1) / r.up
          else (x.actual.toNat - x.target.toNat + r.down - 1) / r.down) ≤ n)

/-- R156: `RLRD` returns `actual + 256 * target` and changes nothing; a channel that does not exist is refused. -/
def Obligations.RlrdReadsTheChannel : Prop :=
  (∀ w : Word, opwCode w = 0xA → decode w = .ok (.rlrd (opwCh w))) ∧
  (∀ (s : State) (ch : BitVec 4) (x : Channel), ch.toNat < s.cfg.nCh → s.blk.channels[ch.toNat]? = some x →
    exec (.rlrd ch) s =
      .next (s.after s.blk ⟨.done, .none, BitVec.ofNat 32 (x.actual.toNat + 256 * x.target.toNat)⟩)) ∧
  ∀ (s : State) (ch : BitVec 4), s.cfg.nCh ≤ ch.toNat →
    exec (.rlrd ch) s = .next (s.after s.blk ⟨.refused, .badChannel, 0⟩)

/-- R157: `ESTOP` sets the flag and puts every target and every actual at 0 at once; nothing else changes. -/
def Obligations.EstopForcesEveryChannelSafe : Prop :=
  (∀ w : Word, opwCode w = 0xB → decode w = .ok .estop) ∧
  ∀ s : State,
    exec .estop s =
      .next (s.after
        { s.blk with estop := true, channels := List.replicate s.blk.channels.length ⟨0, 0⟩ }
        ⟨.done, .none, 0⟩)

/-- R158: `ESTOPCLR` clears the flag and nothing else. -/
def Obligations.EstopclrClearsTheFlagOnly : Prop :=
  (∀ w : Word, opwCode w = 0xC → decode w = .ok .estopclr) ∧
  ∀ s : State, exec .estopclr s = .next (s.after { s.blk with estop := false } ⟨.done, .none, 0⟩)

/-! Rules of the whole machine. -/

/-- R20, R158: the emergency stop is sticky: only `ESTOPCLR`, `SRESET` and the reset pin end it. -/
def Obligations.EmergencyStopIsSticky : Prop :=
  ∀ s t : State, step s = .next t → s.blk.estop = true → t.blk.estop = false →
    (∃ rest, s.inputs = .resetPin :: rest) ∨
      ∃ w now rest, s.inputs = .operation w now :: rest ∧ (decode w = .ok .estopclr ∨ decode w = .ok .sreset)

/-- R159: an operation that begins under emergency stop leaves every target and every actual at the safe value, whatever it
is: `RLSET` stores the safe value, `RLADV` has nothing to move, and `ESTOPCLR` clears the flag alone. -/
def Obligations.StoppedChannelsStaySafe : Prop :=
  ∀ (i : Instr) (s t : State), s.Inv → s.blk.estop = true → exec i s = .next t →
    ∀ x ∈ t.blk.channels, x.target = 0 ∧ x.actual = 0

/-- R155(b), R157, R172: outside the emergency stop and the two resets, an `actual` changes only by `RLADV`, and by no more
than its rate. -/
def Obligations.ActualMovesOnlyAtItsRate : Prop :=
  ∀ (i : Instr) (s t : State) (ch : Nat) (x y : Channel) (r : Ramp), s.Inv → exec i s = .next t →
    s.blk.channels[ch]? = some x → t.blk.channels[ch]? = some y → s.cfg.ramps[ch]? = some r → y.actual ≠ x.actual →
    i = .rladv ∧ y.actual.toNat ≤ x.actual.toNat + r.up ∧ x.actual.toNat ≤ y.actual.toNat + r.down ∨
      (i = .estop ∨ i = .sreset) ∧ y.actual = 0

/-- R16: an operation that changes any part of the latch is `SRESET`, or an `RXFEED` that returned `COMPLETE`. -/
def Obligations.LatchChangesOnlyOnComplete : Prop :=
  ∀ (i : Instr) (s t : State), exec i s = .next t →
    (t.blk.rxfValid, t.blk.rxfCmd, t.blk.rxfLen, t.blk.rxfPayload) ≠
      (s.blk.rxfValid, s.blk.rxfCmd, s.blk.rxfLen, s.blk.rxfPayload) →
    i = .sreset ∨ (∃ b, i = .rxfeed b) ∧ ∃ r, t.results = s.results ++ [r] ∧ r.st = .complete

/-- R15, R181, R184: the counters count the discards: an operation that returns `INVALID` increments exactly the counter of
its reason, saturating, and any other operation but `SRESET` leaves both alone. -/
def Obligations.CountersCountDiscards : Prop :=
  ∀ (i : Instr) (s t : State) (r : Res), i ≠ .sreset → exec i s = .next t → t.results = s.results ++ [r] →
    t.blk.cntFraming.toNat =
      (if r.reason = .timeout ∨ r.reason = .overflow ∨ r.reason = .badEnd then
        min 0xFFFF (s.blk.cntFraming.toNat + 1) else s.blk.cntFraming.toNat) ∧
    t.blk.cntChecksum.toNat =
      (if r.reason = .checksum then min 0xFFFF (s.blk.cntChecksum.toNat + 1) else s.blk.cntChecksum.toNat)

/-- R81, R82: which reasons go with which status and which operation; a `REFUSED` operation changed no state and returns
no data. -/
def Obligations.ResultsAreWellFormed : Prop :=
  ∀ (i : Instr) (s t : State) (r : Res), exec i s = .next t → t.results = s.results ++ [r] →
    match r.st with
    | .done => r.reason = .none
    | .complete => r.reason = .none ∧ ∃ b, i = .rxfeed b
    | .invalid => r.data = 0 ∧ t.blk.rxfValid = s.blk.rxfValid ∧
        (r.reason = .timeout ∧ i = .rxpoll ∨ (∃ b, i = .rxfeed b) ∧
          (r.reason = .timeout ∨ r.reason = .overflow ∨ r.reason = .badEnd ∨ r.reason = .checksum))
    | .refused => r.data = 0 ∧ t.blk = s.blk ∧
        (r.reason = .illegalOp ∧ (i = .reservedD ∨ i = .reservedE) ∨
          r.reason = .badIndex ∧ ((∃ a b, i = .txpwr a b) ∨ (∃ a, i = .txfrd a ∨ i = .rxfrd a ∨ i = .csrrd a)) ∨
          r.reason = .badLength ∧ (∃ a b, i = .txenc a b) ∨
          r.reason = .badChannel ∧ ((∃ a b, i = .rlset a b) ∨ ∃ a, i = .rlrd a))

/-- R44: `TXFRD`, `RXFRD`, `CSRRD` and `RLRD` change nothing of the block, and repeated they return the same result. -/
def Obligations.ReadsHaveNoSideEffect : Prop :=
  ∀ (i : Instr) (s t : State) (r : Res), (∃ a, i = .txfrd a ∨ i = .rxfrd a ∨ i = .csrrd a) ∨ (∃ ch, i = .rlrd ch) →
    exec i s = .next t → t.results = s.results ++ [r] →
    t.blk = s.blk ∧ exec i t = .next (t.after s.blk r)

/-- R10 to R20, R40: who writes what. A field that an operation changed is one its writers include. -/
def Obligations.WritersOfEachField : Prop :=
  ∀ (i : Instr) (s t : State), exec i s = .next t → i ≠ .sreset →
    (t.blk.rxState ≠ s.blk.rxState ∨ t.blk.rxCount ≠ s.blk.rxCount → i = .rxpoll ∨ ∃ b, i = .rxfeed b) ∧
    (t.blk.rxbuf ≠ s.blk.rxbuf ∨ t.blk.rxLast ≠ s.blk.rxLast → ∃ b, i = .rxfeed b) ∧
    (t.blk.txp ≠ s.blk.txp → ∃ a b, i = .txpwr a b) ∧
    (t.blk.txf ≠ s.blk.txf ∨ t.blk.txfLen ≠ s.blk.txfLen → ∃ a b, i = .txenc a b) ∧
    (t.blk.channels.map Channel.target ≠ s.blk.channels.map Channel.target →
      s.blk.channels.length = s.cfg.nCh → i = .estop ∨ ∃ a b, i = .rlset a b) ∧
    (t.blk.channels.map Channel.actual ≠ s.blk.channels.map Channel.actual → i = .rladv ∨ i = .estop) ∧
    (t.blk.estop ≠ s.blk.estop → i = .estop ∨ i = .estopclr)

/-- R24: only `RXFEED` and `RXPOLL` look at `now`. -/
def Obligations.OnlyTheParserLooksAtNow : Prop :=
  ∀ (i : Instr) (s t : State) (now : Time), i ≠ .rxpoll → (∀ b, i ≠ .rxfeed b) → exec i s = .next t →
    exec i { s with now := now } = .next { t with now := now }

/-- R13, R16, 93_implementation_defined.md I7: what lies in `rxbuf` beyond `rx_count`, in `rxf_payload` beyond `rxf_len` and
in `txf` beyond `txf_len` is unobservable: from two good states that agree on everything else, every operation returns the
same result and leaves states that agree on everything else again. -/
def Obligations.StaleBytesAreUnobservable : Prop :=
  let agree := fun k k' : Block =>
    { k with rxbuf := k'.rxbuf, rxfPayload := k'.rxfPayload, txf := k'.txf } = k' ∧
      (∀ a < k.rxCount.toNat, k.rxbuf.read a = k'.rxbuf.read a) ∧
      (∀ a < k.rxfLen.toNat, k.rxfPayload.read a = k'.rxfPayload.read a) ∧
      ∀ a < k.txfLen.toNat, k.txf.read a = k'.txf.read a
  ∀ (i : Instr) (s s' t : State), s.Inv → s'.Inv → { s with blk := s'.blk } = s' → agree s.blk s'.blk →
    exec i s = .next t → ∃ t', exec i s' = .next t' ∧ { t with blk := t'.blk } = t' ∧ agree t.blk t'.blk

/-! The host beside the block. -/

/-- R190 to R193: the host's one reply. A `COMPLETE` is answered with the reply to the frame in the latch. A liveness check
without payload and an update of 7 bytes are acknowledged, the update with the derived value, least significant byte
first, the scaled value and its status codes (R75); where the derived value keeps the one datum of R75, quantity `1000.0`
is answered with `1.0`. Any other frame and every checksum error is answered with an empty negative acknowledgement; a
timeout or overflow is not answered in the reference instance (the model's reading of a contract outside the block, log
entries 12 and 18). -/
def Obligations.HostRepliesOncePerEvent : Prop :=
  ∀ (c : Config) (derived : DerivedValues), c.wf = true →
    dispatchReply c derived c.host.cmdPing [] = (c.host.cmdAck, []) ∧
    (∀ q : UpdateRequest, ∃ b0 b1 b2 b3 : Byte,
      dispatchReply c derived c.host.cmdUpdate (updateRequestPayload q) =
        (c.host.cmdAck, [b0, b1, b2, b3, (derived q).2, q.status1, q.status2, q.status3]) ∧
      (derived q).1.toNat = b0.toNat + 256 * b1.toNat + 65536 * b2.toNat + 16777216 * b3.toNat) ∧
    (keepsWorkedExample derived → ∀ q : UpdateRequest, q.quantity = 0x447A0000 →
      dispatchReply c derived c.host.cmdUpdate (updateRequestPayload q) =
        (c.host.cmdAck, [0x00, 0x00, 0x80, 0x3F, (derived q).2, q.status1, q.status2, q.status3])) ∧
    (∀ (command : Byte) (payload : List Byte),
      command ≠ c.host.cmdPing ∧ command ≠ c.host.cmdUpdate ∨
        command = c.host.cmdPing ∧ payload ≠ [] ∨ command = c.host.cmdUpdate ∧ payload.length ≠ 7 →
      dispatchReply c derived command payload = (c.host.cmdNak, [])) ∧
    (∀ (k : Block) (d : Word), hostReply c derived k ⟨.complete, .none, d⟩ =
      some (dispatchReply c derived k.rxfCmd (k.rxfPayload.readRange 0 k.rxfLen.toNat))) ∧
    ∀ k : Block, hostReply c derived k ⟨.invalid, .checksum, 0⟩ = some (c.host.cmdNak, []) ∧
      hostReply c derived k ⟨.incomplete, .none, 0⟩ = none ∧
      hostReply Config.reference derived k ⟨.invalid, .badEnd, 0⟩ = some (Config.reference.host.cmdNak, []) ∧
      hostReply Config.reference derived k ⟨.invalid, .timeout, 0⟩ = none ∧
      hostReply Config.reference derived k ⟨.invalid, .overflow, 0⟩ = none
end

