-- ==== Sys2Proof/Laws/Encoding.lean ====
section
/-! SUPPORT. The fields of a word assembled from its fields (30_encoding.md R76). -/

namespace Sys2Proof

theorem opwCode_opwOf (c ch : BitVec 4) (i : Byte) (v : BitVec 16) : opwCode (opwOf c ch i v) = c := by
  ext j hj
  simp only [opwCode, opwOf, BitVec.getElem_extractLsb', BitVec.getLsbD_append]
  rw [if_neg (by omega), if_neg (by omega), if_neg (by omega)]
  rw [← BitVec.getLsbD_eq_getElem]
  congr 1
  omega

theorem opwCh_opwOf (c ch : BitVec 4) (i : Byte) (v : BitVec 16) : opwCh (opwOf c ch i v) = ch := by
  ext j hj
  simp only [opwCh, opwOf, BitVec.getElem_extractLsb', BitVec.getLsbD_append]
  rw [if_neg (by omega), if_neg (by omega), if_pos (by omega)]
  rw [← BitVec.getLsbD_eq_getElem]
  congr 1
  omega

theorem opwIdx_opwOf (c ch : BitVec 4) (i : Byte) (v : BitVec 16) : opwIdx (opwOf c ch i v) = i := by
  ext j hj
  simp only [opwIdx, opwOf, BitVec.getElem_extractLsb', BitVec.getLsbD_append]
  rw [if_neg (by omega), if_pos (by omega)]
  rw [← BitVec.getLsbD_eq_getElem]
  congr 1
  omega

theorem opwVal_opwOf (c ch : BitVec 4) (i : Byte) (v : BitVec 16) : opwVal (opwOf c ch i v) = v := by
  ext j hj
  simp only [opwVal, opwOf, BitVec.getElem_extractLsb', BitVec.getLsbD_append]
  rw [if_pos (by omega)]
  rw [← BitVec.getLsbD_eq_getElem]
  congr 1
  omega

theorem opwByte_opwOf (c ch : BitVec 4) (i b : Byte) : opwByte (opwOf c ch i (valOfByte b)) = b := by
  ext j hj
  simp only [opwByte, opwOf, valOfByte, BitVec.getElem_extractLsb', BitVec.getLsbD_append]
  rw [if_pos (by omega), if_pos (by omega)]
  rw [← BitVec.getLsbD_eq_getElem]
  congr 1
  omega

end Sys2Proof
end

