-- ==== Sys2Proof/Laws/State.lean ====
section
/-! SUPPORT. One lemma per field per update of the state, all true by `rfl`. -/

namespace Sys2Proof.Machine

/-! `Block.parserReset` -/

@[simp] theorem Block.parserReset_rxState (k : Block) : k.parserReset.rxState = .awaitingStart := rfl
@[simp] theorem Block.parserReset_rxCount (k : Block) : k.parserReset.rxCount = 0 := rfl
@[simp] theorem Block.parserReset_rxbuf (k : Block) : k.parserReset.rxbuf = k.rxbuf := rfl
@[simp] theorem Block.parserReset_rxLast (k : Block) : k.parserReset.rxLast = k.rxLast := rfl
@[simp] theorem Block.parserReset_cntFraming (k : Block) : k.parserReset.cntFraming = k.cntFraming := rfl
@[simp] theorem Block.parserReset_cntChecksum (k : Block) : k.parserReset.cntChecksum = k.cntChecksum := rfl
@[simp] theorem Block.parserReset_rxfValid (k : Block) : k.parserReset.rxfValid = k.rxfValid := rfl
@[simp] theorem Block.parserReset_rxfCmd (k : Block) : k.parserReset.rxfCmd = k.rxfCmd := rfl
@[simp] theorem Block.parserReset_rxfLen (k : Block) : k.parserReset.rxfLen = k.rxfLen := rfl
@[simp] theorem Block.parserReset_rxfPayload (k : Block) : k.parserReset.rxfPayload = k.rxfPayload := rfl
@[simp] theorem Block.parserReset_txp (k : Block) : k.parserReset.txp = k.txp := rfl
@[simp] theorem Block.parserReset_txf (k : Block) : k.parserReset.txf = k.txf := rfl
@[simp] theorem Block.parserReset_txfLen (k : Block) : k.parserReset.txfLen = k.txfLen := rfl
@[simp] theorem Block.parserReset_channels (k : Block) : k.parserReset.channels = k.channels := rfl
@[simp] theorem Block.parserReset_estop (k : Block) : k.parserReset.estop = k.estop := rfl

/-! `Block.stamp` -/

@[simp] theorem Block.stamp_rxState (t : Time) (k : Block) : (k.stamp t).rxState = k.rxState := rfl
@[simp] theorem Block.stamp_rxCount (t : Time) (k : Block) : (k.stamp t).rxCount = k.rxCount := rfl
@[simp] theorem Block.stamp_rxbuf (t : Time) (k : Block) : (k.stamp t).rxbuf = k.rxbuf := rfl
@[simp] theorem Block.stamp_rxLast (t : Time) (k : Block) : (k.stamp t).rxLast = t := rfl
@[simp] theorem Block.stamp_cntFraming (t : Time) (k : Block) : (k.stamp t).cntFraming = k.cntFraming := rfl
@[simp] theorem Block.stamp_cntChecksum (t : Time) (k : Block) : (k.stamp t).cntChecksum = k.cntChecksum := rfl
@[simp] theorem Block.stamp_rxfValid (t : Time) (k : Block) : (k.stamp t).rxfValid = k.rxfValid := rfl
@[simp] theorem Block.stamp_rxfCmd (t : Time) (k : Block) : (k.stamp t).rxfCmd = k.rxfCmd := rfl
@[simp] theorem Block.stamp_rxfLen (t : Time) (k : Block) : (k.stamp t).rxfLen = k.rxfLen := rfl
@[simp] theorem Block.stamp_rxfPayload (t : Time) (k : Block) : (k.stamp t).rxfPayload = k.rxfPayload := rfl
@[simp] theorem Block.stamp_txp (t : Time) (k : Block) : (k.stamp t).txp = k.txp := rfl
@[simp] theorem Block.stamp_txf (t : Time) (k : Block) : (k.stamp t).txf = k.txf := rfl
@[simp] theorem Block.stamp_txfLen (t : Time) (k : Block) : (k.stamp t).txfLen = k.txfLen := rfl
@[simp] theorem Block.stamp_channels (t : Time) (k : Block) : (k.stamp t).channels = k.channels := rfl
@[simp] theorem Block.stamp_estop (t : Time) (k : Block) : (k.stamp t).estop = k.estop := rfl

/-! `Block.openFrame` -/

@[simp] theorem Block.openFrame_rxState (b : Byte) (k : Block) : (k.openFrame b).rxState = .inFrame := rfl
@[simp] theorem Block.openFrame_rxCount (b : Byte) (k : Block) : (k.openFrame b).rxCount = 1 := rfl
@[simp] theorem Block.openFrame_rxbuf (b : Byte) (k : Block) : (k.openFrame b).rxbuf = k.rxbuf.write 0 b := rfl
@[simp] theorem Block.openFrame_rxLast (b : Byte) (k : Block) : (k.openFrame b).rxLast = k.rxLast := rfl
@[simp] theorem Block.openFrame_cntFraming (b : Byte) (k : Block) : (k.openFrame b).cntFraming = k.cntFraming := rfl
@[simp] theorem Block.openFrame_cntChecksum (b : Byte) (k : Block) : (k.openFrame b).cntChecksum = k.cntChecksum := rfl
@[simp] theorem Block.openFrame_rxfValid (b : Byte) (k : Block) : (k.openFrame b).rxfValid = k.rxfValid := rfl
@[simp] theorem Block.openFrame_rxfCmd (b : Byte) (k : Block) : (k.openFrame b).rxfCmd = k.rxfCmd := rfl
@[simp] theorem Block.openFrame_rxfLen (b : Byte) (k : Block) : (k.openFrame b).rxfLen = k.rxfLen := rfl
@[simp] theorem Block.openFrame_rxfPayload (b : Byte) (k : Block) : (k.openFrame b).rxfPayload = k.rxfPayload := rfl
@[simp] theorem Block.openFrame_txp (b : Byte) (k : Block) : (k.openFrame b).txp = k.txp := rfl
@[simp] theorem Block.openFrame_txf (b : Byte) (k : Block) : (k.openFrame b).txf = k.txf := rfl
@[simp] theorem Block.openFrame_txfLen (b : Byte) (k : Block) : (k.openFrame b).txfLen = k.txfLen := rfl
@[simp] theorem Block.openFrame_channels (b : Byte) (k : Block) : (k.openFrame b).channels = k.channels := rfl
@[simp] theorem Block.openFrame_estop (b : Byte) (k : Block) : (k.openFrame b).estop = k.estop := rfl

/-! `Block.appendByte` -/

@[simp] theorem Block.appendByte_rxState (b : Byte) (n : Nat) (k : Block) : (k.appendByte b n).rxState = k.rxState := rfl
@[simp] theorem Block.appendByte_rxCount (b : Byte) (n : Nat) (k : Block) : (k.appendByte b n).rxCount = BitVec.ofNat 8 n := rfl
@[simp] theorem Block.appendByte_rxbuf (b : Byte) (n : Nat) (k : Block) : (k.appendByte b n).rxbuf = k.rxbuf.write k.rxCount.toNat b := rfl
@[simp] theorem Block.appendByte_rxLast (b : Byte) (n : Nat) (k : Block) : (k.appendByte b n).rxLast = k.rxLast := rfl
@[simp] theorem Block.appendByte_cntFraming (b : Byte) (n : Nat) (k : Block) : (k.appendByte b n).cntFraming = k.cntFraming := rfl
@[simp] theorem Block.appendByte_cntChecksum (b : Byte) (n : Nat) (k : Block) : (k.appendByte b n).cntChecksum = k.cntChecksum := rfl
@[simp] theorem Block.appendByte_rxfValid (b : Byte) (n : Nat) (k : Block) : (k.appendByte b n).rxfValid = k.rxfValid := rfl
@[simp] theorem Block.appendByte_rxfCmd (b : Byte) (n : Nat) (k : Block) : (k.appendByte b n).rxfCmd = k.rxfCmd := rfl
@[simp] theorem Block.appendByte_rxfLen (b : Byte) (n : Nat) (k : Block) : (k.appendByte b n).rxfLen = k.rxfLen := rfl
@[simp] theorem Block.appendByte_rxfPayload (b : Byte) (n : Nat) (k : Block) : (k.appendByte b n).rxfPayload = k.rxfPayload := rfl
@[simp] theorem Block.appendByte_txp (b : Byte) (n : Nat) (k : Block) : (k.appendByte b n).txp = k.txp := rfl
@[simp] theorem Block.appendByte_txf (b : Byte) (n : Nat) (k : Block) : (k.appendByte b n).txf = k.txf := rfl
@[simp] theorem Block.appendByte_txfLen (b : Byte) (n : Nat) (k : Block) : (k.appendByte b n).txfLen = k.txfLen := rfl
@[simp] theorem Block.appendByte_channels (b : Byte) (n : Nat) (k : Block) : (k.appendByte b n).channels = k.channels := rfl
@[simp] theorem Block.appendByte_estop (b : Byte) (n : Nat) (k : Block) : (k.appendByte b n).estop = k.estop := rfl

/-! `Block.latchFrame` -/

@[simp] theorem Block.latchFrame_rxState (k : Block) : k.latchFrame.rxState = k.rxState := rfl
@[simp] theorem Block.latchFrame_rxCount (k : Block) : k.latchFrame.rxCount = k.rxCount := rfl
@[simp] theorem Block.latchFrame_rxbuf (k : Block) : k.latchFrame.rxbuf = k.rxbuf := rfl
@[simp] theorem Block.latchFrame_rxLast (k : Block) : k.latchFrame.rxLast = k.rxLast := rfl
@[simp] theorem Block.latchFrame_cntFraming (k : Block) : k.latchFrame.cntFraming = k.cntFraming := rfl
@[simp] theorem Block.latchFrame_cntChecksum (k : Block) : k.latchFrame.cntChecksum = k.cntChecksum := rfl
@[simp] theorem Block.latchFrame_rxfValid (k : Block) : k.latchFrame.rxfValid = true := rfl
@[simp] theorem Block.latchFrame_rxfCmd (k : Block) : k.latchFrame.rxfCmd = k.rxbuf.read 1 := rfl
@[simp] theorem Block.latchFrame_rxfLen (k : Block) : k.latchFrame.rxfLen = k.rxbuf.read 2 := rfl
@[simp] theorem Block.latchFrame_rxfPayload (k : Block) : k.latchFrame.rxfPayload = k.rxfPayload.writeList 0 (k.rxbuf.readRange 3 (k.rxbuf.read 2).toNat) := rfl
@[simp] theorem Block.latchFrame_txp (k : Block) : k.latchFrame.txp = k.txp := rfl
@[simp] theorem Block.latchFrame_txf (k : Block) : k.latchFrame.txf = k.txf := rfl
@[simp] theorem Block.latchFrame_txfLen (k : Block) : k.latchFrame.txfLen = k.txfLen := rfl
@[simp] theorem Block.latchFrame_channels (k : Block) : k.latchFrame.channels = k.channels := rfl
@[simp] theorem Block.latchFrame_estop (k : Block) : k.latchFrame.estop = k.estop := rfl

/-! `Block.storeFrame` -/

@[simp] theorem Block.storeFrame_rxState (f : List Byte) (k : Block) : (k.storeFrame f).rxState = k.rxState := rfl
@[simp] theorem Block.storeFrame_rxCount (f : List Byte) (k : Block) : (k.storeFrame f).rxCount = k.rxCount := rfl
@[simp] theorem Block.storeFrame_rxbuf (f : List Byte) (k : Block) : (k.storeFrame f).rxbuf = k.rxbuf := rfl
@[simp] theorem Block.storeFrame_rxLast (f : List Byte) (k : Block) : (k.storeFrame f).rxLast = k.rxLast := rfl
@[simp] theorem Block.storeFrame_cntFraming (f : List Byte) (k : Block) : (k.storeFrame f).cntFraming = k.cntFraming := rfl
@[simp] theorem Block.storeFrame_cntChecksum (f : List Byte) (k : Block) : (k.storeFrame f).cntChecksum = k.cntChecksum := rfl
@[simp] theorem Block.storeFrame_rxfValid (f : List Byte) (k : Block) : (k.storeFrame f).rxfValid = k.rxfValid := rfl
@[simp] theorem Block.storeFrame_rxfCmd (f : List Byte) (k : Block) : (k.storeFrame f).rxfCmd = k.rxfCmd := rfl
@[simp] theorem Block.storeFrame_rxfLen (f : List Byte) (k : Block) : (k.storeFrame f).rxfLen = k.rxfLen := rfl
@[simp] theorem Block.storeFrame_rxfPayload (f : List Byte) (k : Block) : (k.storeFrame f).rxfPayload = k.rxfPayload := rfl
@[simp] theorem Block.storeFrame_txp (f : List Byte) (k : Block) : (k.storeFrame f).txp = k.txp := rfl
@[simp] theorem Block.storeFrame_txf (f : List Byte) (k : Block) : (k.storeFrame f).txf = k.txf.writeList 0 f := rfl
@[simp] theorem Block.storeFrame_txfLen (f : List Byte) (k : Block) : (k.storeFrame f).txfLen = BitVec.ofNat 8 f.length := rfl
@[simp] theorem Block.storeFrame_channels (f : List Byte) (k : Block) : (k.storeFrame f).channels = k.channels := rfl
@[simp] theorem Block.storeFrame_estop (f : List Byte) (k : Block) : (k.storeFrame f).estop = k.estop := rfl

/-! `Block.stage` -/

@[simp] theorem Block.stage_rxState (i : Nat) (b : Byte) (k : Block) : (k.stage i b).rxState = k.rxState := rfl
@[simp] theorem Block.stage_rxCount (i : Nat) (b : Byte) (k : Block) : (k.stage i b).rxCount = k.rxCount := rfl
@[simp] theorem Block.stage_rxbuf (i : Nat) (b : Byte) (k : Block) : (k.stage i b).rxbuf = k.rxbuf := rfl
@[simp] theorem Block.stage_rxLast (i : Nat) (b : Byte) (k : Block) : (k.stage i b).rxLast = k.rxLast := rfl
@[simp] theorem Block.stage_cntFraming (i : Nat) (b : Byte) (k : Block) : (k.stage i b).cntFraming = k.cntFraming := rfl
@[simp] theorem Block.stage_cntChecksum (i : Nat) (b : Byte) (k : Block) : (k.stage i b).cntChecksum = k.cntChecksum := rfl
@[simp] theorem Block.stage_rxfValid (i : Nat) (b : Byte) (k : Block) : (k.stage i b).rxfValid = k.rxfValid := rfl
@[simp] theorem Block.stage_rxfCmd (i : Nat) (b : Byte) (k : Block) : (k.stage i b).rxfCmd = k.rxfCmd := rfl
@[simp] theorem Block.stage_rxfLen (i : Nat) (b : Byte) (k : Block) : (k.stage i b).rxfLen = k.rxfLen := rfl
@[simp] theorem Block.stage_rxfPayload (i : Nat) (b : Byte) (k : Block) : (k.stage i b).rxfPayload = k.rxfPayload := rfl
@[simp] theorem Block.stage_txp (i : Nat) (b : Byte) (k : Block) : (k.stage i b).txp = k.txp.write i b := rfl
@[simp] theorem Block.stage_txf (i : Nat) (b : Byte) (k : Block) : (k.stage i b).txf = k.txf := rfl
@[simp] theorem Block.stage_txfLen (i : Nat) (b : Byte) (k : Block) : (k.stage i b).txfLen = k.txfLen := rfl
@[simp] theorem Block.stage_channels (i : Nat) (b : Byte) (k : Block) : (k.stage i b).channels = k.channels := rfl
@[simp] theorem Block.stage_estop (i : Nat) (b : Byte) (k : Block) : (k.stage i b).estop = k.estop := rfl

/-! `Block.storeTarget` -/

@[simp] theorem Block.storeTarget_rxState (ch : Nat) (v : Byte) (k : Block) : (k.storeTarget ch v).rxState = k.rxState := rfl
@[simp] theorem Block.storeTarget_rxCount (ch : Nat) (v : Byte) (k : Block) : (k.storeTarget ch v).rxCount = k.rxCount := rfl
@[simp] theorem Block.storeTarget_rxbuf (ch : Nat) (v : Byte) (k : Block) : (k.storeTarget ch v).rxbuf = k.rxbuf := rfl
@[simp] theorem Block.storeTarget_rxLast (ch : Nat) (v : Byte) (k : Block) : (k.storeTarget ch v).rxLast = k.rxLast := rfl
@[simp] theorem Block.storeTarget_cntFraming (ch : Nat) (v : Byte) (k : Block) : (k.storeTarget ch v).cntFraming = k.cntFraming := rfl
@[simp] theorem Block.storeTarget_cntChecksum (ch : Nat) (v : Byte) (k : Block) : (k.storeTarget ch v).cntChecksum = k.cntChecksum := rfl
@[simp] theorem Block.storeTarget_rxfValid (ch : Nat) (v : Byte) (k : Block) : (k.storeTarget ch v).rxfValid = k.rxfValid := rfl
@[simp] theorem Block.storeTarget_rxfCmd (ch : Nat) (v : Byte) (k : Block) : (k.storeTarget ch v).rxfCmd = k.rxfCmd := rfl
@[simp] theorem Block.storeTarget_rxfLen (ch : Nat) (v : Byte) (k : Block) : (k.storeTarget ch v).rxfLen = k.rxfLen := rfl
@[simp] theorem Block.storeTarget_rxfPayload (ch : Nat) (v : Byte) (k : Block) : (k.storeTarget ch v).rxfPayload = k.rxfPayload := rfl
@[simp] theorem Block.storeTarget_txp (ch : Nat) (v : Byte) (k : Block) : (k.storeTarget ch v).txp = k.txp := rfl
@[simp] theorem Block.storeTarget_txf (ch : Nat) (v : Byte) (k : Block) : (k.storeTarget ch v).txf = k.txf := rfl
@[simp] theorem Block.storeTarget_txfLen (ch : Nat) (v : Byte) (k : Block) : (k.storeTarget ch v).txfLen = k.txfLen := rfl
@[simp] theorem Block.storeTarget_channels (ch : Nat) (v : Byte) (k : Block) : (k.storeTarget ch v).channels = k.channels.modify ch fun x => { x with target := v } := rfl
@[simp] theorem Block.storeTarget_estop (ch : Nat) (v : Byte) (k : Block) : (k.storeTarget ch v).estop = k.estop := rfl

/-! `Block.advance` -/

@[simp] theorem Block.advance_rxState (c : Config) (k : Block) : (k.advance c).rxState = k.rxState := rfl
@[simp] theorem Block.advance_rxCount (c : Config) (k : Block) : (k.advance c).rxCount = k.rxCount := rfl
@[simp] theorem Block.advance_rxbuf (c : Config) (k : Block) : (k.advance c).rxbuf = k.rxbuf := rfl
@[simp] theorem Block.advance_rxLast (c : Config) (k : Block) : (k.advance c).rxLast = k.rxLast := rfl
@[simp] theorem Block.advance_cntFraming (c : Config) (k : Block) : (k.advance c).cntFraming = k.cntFraming := rfl
@[simp] theorem Block.advance_cntChecksum (c : Config) (k : Block) : (k.advance c).cntChecksum = k.cntChecksum := rfl
@[simp] theorem Block.advance_rxfValid (c : Config) (k : Block) : (k.advance c).rxfValid = k.rxfValid := rfl
@[simp] theorem Block.advance_rxfCmd (c : Config) (k : Block) : (k.advance c).rxfCmd = k.rxfCmd := rfl
@[simp] theorem Block.advance_rxfLen (c : Config) (k : Block) : (k.advance c).rxfLen = k.rxfLen := rfl
@[simp] theorem Block.advance_rxfPayload (c : Config) (k : Block) : (k.advance c).rxfPayload = k.rxfPayload := rfl
@[simp] theorem Block.advance_txp (c : Config) (k : Block) : (k.advance c).txp = k.txp := rfl
@[simp] theorem Block.advance_txf (c : Config) (k : Block) : (k.advance c).txf = k.txf := rfl
@[simp] theorem Block.advance_txfLen (c : Config) (k : Block) : (k.advance c).txfLen = k.txfLen := rfl
@[simp] theorem Block.advance_channels (c : Config) (k : Block) : (k.advance c).channels = List.zipWith advanceChannel c.ramps k.channels := rfl
@[simp] theorem Block.advance_estop (c : Config) (k : Block) : (k.advance c).estop = k.estop := rfl

/-! `Block.emergencyStop` -/

@[simp] theorem Block.emergencyStop_rxState (k : Block) : k.emergencyStop.rxState = k.rxState := rfl
@[simp] theorem Block.emergencyStop_rxCount (k : Block) : k.emergencyStop.rxCount = k.rxCount := rfl
@[simp] theorem Block.emergencyStop_rxbuf (k : Block) : k.emergencyStop.rxbuf = k.rxbuf := rfl
@[simp] theorem Block.emergencyStop_rxLast (k : Block) : k.emergencyStop.rxLast = k.rxLast := rfl
@[simp] theorem Block.emergencyStop_cntFraming (k : Block) : k.emergencyStop.cntFraming = k.cntFraming := rfl
@[simp] theorem Block.emergencyStop_cntChecksum (k : Block) : k.emergencyStop.cntChecksum = k.cntChecksum := rfl
@[simp] theorem Block.emergencyStop_rxfValid (k : Block) : k.emergencyStop.rxfValid = k.rxfValid := rfl
@[simp] theorem Block.emergencyStop_rxfCmd (k : Block) : k.emergencyStop.rxfCmd = k.rxfCmd := rfl
@[simp] theorem Block.emergencyStop_rxfLen (k : Block) : k.emergencyStop.rxfLen = k.rxfLen := rfl
@[simp] theorem Block.emergencyStop_rxfPayload (k : Block) : k.emergencyStop.rxfPayload = k.rxfPayload := rfl
@[simp] theorem Block.emergencyStop_txp (k : Block) : k.emergencyStop.txp = k.txp := rfl
@[simp] theorem Block.emergencyStop_txf (k : Block) : k.emergencyStop.txf = k.txf := rfl
@[simp] theorem Block.emergencyStop_txfLen (k : Block) : k.emergencyStop.txfLen = k.txfLen := rfl
@[simp] theorem Block.emergencyStop_channels (k : Block) : k.emergencyStop.channels = k.channels.map fun _ => ⟨Config.safe, Config.safe⟩ := rfl
@[simp] theorem Block.emergencyStop_estop (k : Block) : k.emergencyStop.estop = true := rfl

/-! `Block.clearStop` -/

@[simp] theorem Block.clearStop_rxState (k : Block) : k.clearStop.rxState = k.rxState := rfl
@[simp] theorem Block.clearStop_rxCount (k : Block) : k.clearStop.rxCount = k.rxCount := rfl
@[simp] theorem Block.clearStop_rxbuf (k : Block) : k.clearStop.rxbuf = k.rxbuf := rfl
@[simp] theorem Block.clearStop_rxLast (k : Block) : k.clearStop.rxLast = k.rxLast := rfl
@[simp] theorem Block.clearStop_cntFraming (k : Block) : k.clearStop.cntFraming = k.cntFraming := rfl
@[simp] theorem Block.clearStop_cntChecksum (k : Block) : k.clearStop.cntChecksum = k.cntChecksum := rfl
@[simp] theorem Block.clearStop_rxfValid (k : Block) : k.clearStop.rxfValid = k.rxfValid := rfl
@[simp] theorem Block.clearStop_rxfCmd (k : Block) : k.clearStop.rxfCmd = k.rxfCmd := rfl
@[simp] theorem Block.clearStop_rxfLen (k : Block) : k.clearStop.rxfLen = k.rxfLen := rfl
@[simp] theorem Block.clearStop_rxfPayload (k : Block) : k.clearStop.rxfPayload = k.rxfPayload := rfl
@[simp] theorem Block.clearStop_txp (k : Block) : k.clearStop.txp = k.txp := rfl
@[simp] theorem Block.clearStop_txf (k : Block) : k.clearStop.txf = k.txf := rfl
@[simp] theorem Block.clearStop_txfLen (k : Block) : k.clearStop.txfLen = k.txfLen := rfl
@[simp] theorem Block.clearStop_channels (k : Block) : k.clearStop.channels = k.channels := rfl
@[simp] theorem Block.clearStop_estop (k : Block) : k.clearStop.estop = false := rfl

/-! `Block.countDiscard` and `Block.discardFrame`: the counters are in Laws/Ops.lean. -/

@[simp] theorem Block.countDiscard_rxState (r : Reason) (k : Block) : (k.countDiscard r).rxState = k.rxState := by cases r <;> rfl
@[simp] theorem Block.countDiscard_rxCount (r : Reason) (k : Block) : (k.countDiscard r).rxCount = k.rxCount := by cases r <;> rfl
@[simp] theorem Block.countDiscard_rxbuf (r : Reason) (k : Block) : (k.countDiscard r).rxbuf = k.rxbuf := by cases r <;> rfl
@[simp] theorem Block.countDiscard_rxLast (r : Reason) (k : Block) : (k.countDiscard r).rxLast = k.rxLast := by cases r <;> rfl
@[simp] theorem Block.countDiscard_rxfValid (r : Reason) (k : Block) : (k.countDiscard r).rxfValid = k.rxfValid := by cases r <;> rfl
@[simp] theorem Block.countDiscard_rxfCmd (r : Reason) (k : Block) : (k.countDiscard r).rxfCmd = k.rxfCmd := by cases r <;> rfl
@[simp] theorem Block.countDiscard_rxfLen (r : Reason) (k : Block) : (k.countDiscard r).rxfLen = k.rxfLen := by cases r <;> rfl
@[simp] theorem Block.countDiscard_rxfPayload (r : Reason) (k : Block) : (k.countDiscard r).rxfPayload = k.rxfPayload := by cases r <;> rfl
@[simp] theorem Block.countDiscard_txp (r : Reason) (k : Block) : (k.countDiscard r).txp = k.txp := by cases r <;> rfl
@[simp] theorem Block.countDiscard_txf (r : Reason) (k : Block) : (k.countDiscard r).txf = k.txf := by cases r <;> rfl
@[simp] theorem Block.countDiscard_txfLen (r : Reason) (k : Block) : (k.countDiscard r).txfLen = k.txfLen := by cases r <;> rfl
@[simp] theorem Block.countDiscard_channels (r : Reason) (k : Block) : (k.countDiscard r).channels = k.channels := by cases r <;> rfl
@[simp] theorem Block.countDiscard_estop (r : Reason) (k : Block) : (k.countDiscard r).estop = k.estop := by cases r <;> rfl

@[simp] theorem Block.discardFrame_rxState (r : Reason) (k : Block) : (k.discardFrame r).rxState = .awaitingStart := by cases r <;> rfl
@[simp] theorem Block.discardFrame_rxCount (r : Reason) (k : Block) : (k.discardFrame r).rxCount = 0 := by cases r <;> rfl
@[simp] theorem Block.discardFrame_rxbuf (r : Reason) (k : Block) : (k.discardFrame r).rxbuf = k.rxbuf := by cases r <;> rfl
@[simp] theorem Block.discardFrame_rxLast (r : Reason) (k : Block) : (k.discardFrame r).rxLast = k.rxLast := by cases r <;> rfl
@[simp] theorem Block.discardFrame_rxfValid (r : Reason) (k : Block) : (k.discardFrame r).rxfValid = k.rxfValid := by cases r <;> rfl
@[simp] theorem Block.discardFrame_rxfCmd (r : Reason) (k : Block) : (k.discardFrame r).rxfCmd = k.rxfCmd := by cases r <;> rfl
@[simp] theorem Block.discardFrame_rxfLen (r : Reason) (k : Block) : (k.discardFrame r).rxfLen = k.rxfLen := by cases r <;> rfl
@[simp] theorem Block.discardFrame_rxfPayload (r : Reason) (k : Block) : (k.discardFrame r).rxfPayload = k.rxfPayload := by cases r <;> rfl
@[simp] theorem Block.discardFrame_txp (r : Reason) (k : Block) : (k.discardFrame r).txp = k.txp := by cases r <;> rfl
@[simp] theorem Block.discardFrame_txf (r : Reason) (k : Block) : (k.discardFrame r).txf = k.txf := by cases r <;> rfl
@[simp] theorem Block.discardFrame_txfLen (r : Reason) (k : Block) : (k.discardFrame r).txfLen = k.txfLen := by cases r <;> rfl
@[simp] theorem Block.discardFrame_channels (r : Reason) (k : Block) : (k.discardFrame r).channels = k.channels := by cases r <;> rfl
@[simp] theorem Block.discardFrame_estop (r : Reason) (k : Block) : (k.discardFrame r).estop = k.estop := by cases r <;> rfl

/-! `Block.reset` -/

@[simp] theorem Block.reset_rxState (c : Config) : (Block.reset c).rxState = .awaitingStart := rfl
@[simp] theorem Block.reset_rxCount (c : Config) : (Block.reset c).rxCount = 0 := rfl
@[simp] theorem Block.reset_rxbuf (c : Config) : (Block.reset c).rxbuf = [] := rfl
@[simp] theorem Block.reset_rxLast (c : Config) : (Block.reset c).rxLast = 0 := rfl
@[simp] theorem Block.reset_cntFraming (c : Config) : (Block.reset c).cntFraming = 0 := rfl
@[simp] theorem Block.reset_cntChecksum (c : Config) : (Block.reset c).cntChecksum = 0 := rfl
@[simp] theorem Block.reset_rxfValid (c : Config) : (Block.reset c).rxfValid = false := rfl
@[simp] theorem Block.reset_rxfCmd (c : Config) : (Block.reset c).rxfCmd = 0 := rfl
@[simp] theorem Block.reset_rxfLen (c : Config) : (Block.reset c).rxfLen = 0 := rfl
@[simp] theorem Block.reset_rxfPayload (c : Config) : (Block.reset c).rxfPayload = [] := rfl
@[simp] theorem Block.reset_txp (c : Config) : (Block.reset c).txp = [] := rfl
@[simp] theorem Block.reset_txf (c : Config) : (Block.reset c).txf = [] := rfl
@[simp] theorem Block.reset_txfLen (c : Config) : (Block.reset c).txfLen = 0 := rfl
@[simp] theorem Block.reset_channels (c : Config) : (Block.reset c).channels = List.replicate c.nCh ⟨Config.safe, Config.safe⟩ := rfl
@[simp] theorem Block.reset_estop (c : Config) : (Block.reset c).estop = false := rfl

/-! `State.after` -/

@[simp] theorem State.after_cfg (s : State) (k : Block) (r : Res) : (s.after k r).cfg = s.cfg := rfl
@[simp] theorem State.after_blk (s : State) (k : Block) (r : Res) : (s.after k r).blk = k := rfl
@[simp] theorem State.after_now (s : State) (k : Block) (r : Res) : (s.after k r).now = s.now := rfl
@[simp] theorem State.after_inputs (s : State) (k : Block) (r : Res) : (s.after k r).inputs = s.inputs := rfl
@[simp] theorem State.after_results (s : State) (k : Block) (r : Res) : (s.after k r).results = s.results ++ [r] := rfl

/-! `State.resetBlock` -/

@[simp] theorem State.resetBlock_cfg (s : State) : s.resetBlock.cfg = s.cfg := rfl
@[simp] theorem State.resetBlock_blk (s : State) : s.resetBlock.blk = Block.reset s.cfg := rfl
@[simp] theorem State.resetBlock_now (s : State) : s.resetBlock.now = s.now := rfl
@[simp] theorem State.resetBlock_inputs (s : State) : s.resetBlock.inputs = s.inputs := rfl
@[simp] theorem State.resetBlock_results (s : State) : s.resetBlock.results = s.results := rfl

/-! `State.present` -/

@[simp] theorem State.present_cfg (s : State) (w : Word) : (s.present w).cfg = s.cfg := rfl
@[simp] theorem State.present_blk (s : State) (w : Word) : (s.present w).blk = s.blk := rfl
@[simp] theorem State.present_now (s : State) (w : Word) : (s.present w).now = s.now := rfl
@[simp] theorem State.present_inputs (s : State) (w : Word) : (s.present w).inputs = .operation w s.now :: s.inputs := rfl
@[simp] theorem State.present_results (s : State) (w : Word) : (s.present w).results = s.results := rfl

/-! `State.resetOf` -/

@[simp] theorem State.resetOf_cfg (c : Config) : (State.resetOf c).cfg = c := rfl
@[simp] theorem State.resetOf_blk (c : Config) : (State.resetOf c).blk = Block.reset c := rfl
@[simp] theorem State.resetOf_now (c : Config) : (State.resetOf c).now = 0 := rfl
@[simp] theorem State.resetOf_inputs (c : Config) : (State.resetOf c).inputs = [] := rfl
@[simp] theorem State.resetOf_results (c : Config) : (State.resetOf c).results = [] := rfl

end Sys2Proof.Machine
end

