-- ==== Sys2Proof/Laws/Memory.lean ====
section
/-! SUPPORT. What the buffer operations do: reads after writes, and the canonical form every operation keeps. -/

namespace Sys2Proof.Machine

@[simp] theorem Memory.read_nil (x : Nat) : Memory.read [] x = Memory.unlisted := rfl

theorem Memory.read_cons (a : Nat) (v : Byte) (m : Memory) (x : Nat) :
    Memory.read ((a, v) :: m) x = if x = a then v else Memory.read m x := rfl

theorem Memory.wf_nil : Memory.wf [] = true := rfl

theorem Memory.wfFrom_cons {lo a : Nat} {v : Byte} {m : Memory} :
    Memory.wfFrom lo ((a, v) :: m) = true ↔ lo ≤ a ∧ v ≠ Memory.unlisted ∧ Memory.wfFrom (a + 1) m = true := by
  simp [Memory.wfFrom, and_assoc]

theorem Memory.wfFrom_mono {lo lo' : Nat} {m : Memory} (h : lo' ≤ lo) (hm : Memory.wfFrom lo m = true) :
    Memory.wfFrom lo' m = true := by
  cases m with
  | nil => rfl
  | cons p m =>
    obtain ⟨a, v⟩ := p
    rw [Memory.wfFrom_cons] at hm ⊢
    exact ⟨le_trans h hm.1, hm.2⟩

theorem Memory.wf_of_wfFrom {lo : Nat} {m : Memory} (h : Memory.wfFrom lo m = true) : m.wf = true :=
  Memory.wfFrom_mono (Nat.zero_le lo) h

/-- Below its first possible address a canonical buffer lists nothing. -/
theorem Memory.read_below {lo : Nat} {m : Memory} (hm : Memory.wfFrom lo m = true) {x : Nat} (hx : x < lo) :
    m.read x = Memory.unlisted := by
  induction m generalizing lo with
  | nil => rfl
  | cons p m ih =>
    obtain ⟨a, v⟩ := p
    rw [Memory.wfFrom_cons] at hm
    rw [Memory.read_cons, if_neg (by omega)]
    exact ih hm.2.2 (by omega)

/-- A write keeps the canonical form. -/
theorem Memory.write_wfFrom {lo : Nat} {m : Memory} (hm : Memory.wfFrom lo m = true) {x : Nat} (hx : lo ≤ x)
    (v : Byte) : Memory.wfFrom lo (m.write x v) = true := by
  induction m generalizing lo with
  | nil =>
    unfold Memory.write
    split
    · rfl
    · exact Memory.wfFrom_cons.2 ⟨hx, ‹_›, rfl⟩
  | cons p m ih =>
    obtain ⟨a, w⟩ := p
    have h := Memory.wfFrom_cons.1 hm
    unfold Memory.write
    split
    · split
      · exact hm
      · exact Memory.wfFrom_cons.2 ⟨hx, ‹_›, Memory.wfFrom_cons.2 ⟨by omega, h.2⟩⟩
    · split
      · split
        · exact Memory.wfFrom_mono (by omega) h.2.2
        · exact Memory.wfFrom_cons.2 ⟨h.1, ‹_›, h.2.2⟩
      · exact Memory.wfFrom_cons.2 ⟨h.1, h.2.1, ih h.2.2 (by omega)⟩

theorem Memory.write_wf {m : Memory} (hm : m.wf = true) (x : Nat) (v : Byte) : (m.write x v).wf = true :=
  Memory.write_wfFrom hm (Nat.zero_le x) v

theorem Memory.read_write_of_wfFrom {lo : Nat} {m : Memory} (hm : Memory.wfFrom lo m = true) (x : Nat) (v : Byte)
    (y : Nat) : (m.write x v).read y = if y = x then v else m.read y := by
  induction m generalizing lo with
  | nil =>
    unfold Memory.write
    split
    · simp_all
    · rfl
  | cons p m ih =>
    obtain ⟨a, w⟩ := p
    have h := Memory.wfFrom_cons.1 hm
    unfold Memory.write
    split
    · split
      · split
        · rw [Memory.read_cons, if_neg (by omega), Memory.read_below h.2.2 (by omega), ‹v = _›]
        · rfl
      · rw [Memory.read_cons]
    · split
      · subst ‹x = a›
        split
        · rw [Memory.read_cons]
          split
          · rw [Memory.read_below h.2.2 (by omega), ‹v = _›]
          · rfl
        · rw [Memory.read_cons, Memory.read_cons]
          split <;> rfl
      · rw [Memory.read_cons, Memory.read_cons, ih h.2.2]
        split
        · rw [if_neg (by omega)]
        · rfl

/-- A read after a write: the value written at its address, the old value everywhere else. -/
theorem Memory.read_write {m : Memory} (hm : m.wf = true) (x : Nat) (v : Byte) (y : Nat) :
    (m.write x v).read y = if y = x then v else m.read y :=
  Memory.read_write_of_wfFrom hm x v y

theorem Memory.writeList_wf {m : Memory} (hm : m.wf = true) (a : Nat) (bs : List Byte) :
    (m.writeList a bs).wf = true := by
  induction bs generalizing m a with
  | nil => exact hm
  | cons b bs ih => exact ih (Memory.write_wf hm a b) (a + 1)

/-- A read after a run of writes: the bytes written in their range, the old value everywhere else. -/
theorem Memory.read_writeList {m : Memory} (hm : m.wf = true) (a : Nat) (bs : List Byte) (y : Nat) :
    (m.writeList a bs).read y = if a ≤ y ∧ y < a + bs.length then bs.getD (y - a) 0 else m.read y := by
  induction bs generalizing m a with
  | nil =>
    rw [if_neg (by simp)]
    rfl
  | cons b bs ih =>
    show ((m.write a b).writeList (a + 1) bs).read y = _
    rw [ih (Memory.write_wf hm a b), Memory.read_write hm, List.length_cons]
    rcases Nat.lt_trichotomy y a with h | rfl | h
    · rw [if_neg (by omega), if_neg (by omega), if_neg (by omega)]
    · rw [if_neg (by omega), if_pos rfl, if_pos (by omega), Nat.sub_self]
      rfl
    · by_cases h' : y < a + 1 + bs.length
      · rw [if_pos (by omega), if_pos (by omega), show y - a = (y - (a + 1)) + 1 by omega, List.getD_cons_succ]
      · rw [if_neg (by omega), if_neg (by omega), if_neg (by omega)]

@[simp] theorem Memory.length_readRange (m : Memory) (a n : Nat) : (m.readRange a n).length = n := by
  induction n generalizing a with
  | zero => rfl
  | succ n ih => exact congrArg Nat.succ (ih (a + 1))

theorem Memory.getElem?_readRange (m : Memory) (a n i : Nat) :
    (m.readRange a n)[i]? = if i < n then some (m.read (a + i)) else none := by
  induction n generalizing a i with
  | zero => rw [if_neg (by omega)]; rfl
  | succ n ih =>
    cases i with
    | zero => rw [if_pos (by omega)]; rfl
    | succ i =>
      show (m.readRange (a + 1) n)[i]? = _
      rw [ih, show a + 1 + i = a + (i + 1) by omega]
      by_cases h : i < n
      · rw [if_pos h, if_pos (by omega)]
      · rw [if_neg h, if_neg (by omega)]

/-- Two buffers that agree on a range give the same bytes there. -/
theorem Memory.readRange_congr {m m' : Memory} {a n : Nat} (h : ∀ i, i < n → m.read (a + i) = m'.read (a + i)) :
    m.readRange a n = m'.readRange a n := by
  apply List.ext_getElem?
  intro i
  rw [Memory.getElem?_readRange, Memory.getElem?_readRange]
  split
  · rw [h i ‹_›]
  · rfl

theorem Memory.ext_of_wfFrom {lo : Nat} {m m' : Memory} (hm : Memory.wfFrom lo m = true)
    (hm' : Memory.wfFrom lo m' = true) (h : ∀ x, m.read x = m'.read x) : m = m' := by
  induction m generalizing lo m' with
  | nil =>
    cases m' with
    | nil => rfl
    | cons p m' =>
      obtain ⟨a, v⟩ := p
      have := h a
      rw [Memory.read_cons, if_pos rfl] at this
      exact absurd this.symm (Memory.wfFrom_cons.1 hm').2.1
  | cons p m ih =>
    obtain ⟨a, v⟩ := p
    have h1 := Memory.wfFrom_cons.1 hm
    cases m' with
    | nil =>
      have := h a
      rw [Memory.read_cons, if_pos rfl] at this
      exact absurd this h1.2.1
    | cons p' m' =>
      obtain ⟨a', v'⟩ := p'
      have h2 := Memory.wfFrom_cons.1 hm'
      have e : a = a' := by
        rcases Nat.lt_trichotomy a a' with hlt | he | hgt
        · have := h a
          rw [Memory.read_cons, if_pos rfl, Memory.read_cons, if_neg (by omega),
            Memory.read_below h2.2.2 (by omega)] at this
          exact absurd this h1.2.1
        · exact he
        · have := h a'
          rw [Memory.read_cons, if_neg (by omega), Memory.read_below h1.2.2 (by omega), Memory.read_cons,
            if_pos rfl] at this
          exact absurd this.symm h2.2.1
      subst e
      have ev : v = v' := by
        have := h a
        rwa [Memory.read_cons, if_pos rfl, Memory.read_cons, if_pos rfl] at this
      subst ev
      congr 1
      apply ih h1.2.2 h2.2.2
      intro x
      by_cases hx : x = a
      · subst hx
        rw [Memory.read_below h1.2.2 (by omega), Memory.read_below h2.2.2 (by omega)]
      · have := h x
        rwa [Memory.read_cons, if_neg hx, Memory.read_cons, if_neg hx] at this

/-- Canonical buffers with the same contents are the same data. -/
theorem Memory.canonical_ext {m m' : Memory} (hm : m.wf = true) (hm' : m'.wf = true)
    (h : ∀ x, m.read x = m'.read x) : m = m' :=
  Memory.ext_of_wfFrom hm hm' h

end Sys2Proof.Machine
end

