-- ==== Sys2Proof/Laws/Ops.lean ====
section
/-! SUPPORT. What each shared operation can do, said once: the lemmas to cite instead of unfolding. -/

namespace Sys2Proof.Machine

/-! Buffers in their spaces. -/

theorem Memory.fits_nil (n : Nat) : Memory.Fits [] n := ⟨rfl, fun _ _ => rfl⟩

theorem Memory.Fits.write {m : Memory} {n : Nat} (h : m.Fits n) {x : Nat} (hx : x < n) (v : Byte) :
    (m.write x v).Fits n :=
  ⟨Memory.write_wf h.canonical x v, fun a ha => by
    rw [Memory.read_write h.canonical, if_neg (by omega), h.outside a ha]⟩

theorem Memory.Fits.writeList {m : Memory} {n : Nat} (h : m.Fits n) {a : Nat} {bs : List Byte}
    (hx : a + bs.length ≤ n) : (m.writeList a bs).Fits n :=
  ⟨Memory.writeList_wf h.canonical a bs, fun y hy => by
    rw [Memory.read_writeList h.canonical, if_neg (by omega), h.outside y hy]⟩

/-- Reading back a run of bytes just written. -/
theorem Memory.readRange_writeList {m : Memory} (hm : m.wf = true) (a : Nat) (bs : List Byte) :
    (m.writeList a bs).readRange a bs.length = bs := by
  apply List.ext_getElem?
  intro i
  rw [Memory.getElem?_readRange]
  split
  · rw [Memory.read_writeList hm, if_pos (by omega), Nat.add_sub_cancel_left, List.getD_eq_getElem?_getD,
      List.getElem?_eq_getElem ‹_›]
    rfl
  · rw [List.getElem?_eq_none (by omega)]

theorem onElement_ok_iff {α : Type} {c : Config} {sp : Space} {i : Nat} {a b : α} :
    onElement c sp i a = .ok b ↔ i < sp.size c ∧ a = b := by
  unfold onElement
  split <;> simp_all

theorem Block.onChannel_ok_iff {α : Type} {k : Block} {ch : Nat} {f : Channel → α} {b : α} :
    k.onChannel ch f = .ok b ↔ ∃ x, k.channels[ch]? = some x ∧ f x = b := by
  unfold Block.onChannel
  split <;> simp_all

/-! Counters and discards. -/

theorem satInc_toNat (n : BitVec 16) : (satInc n).toNat = min 0xFFFF (n.toNat + 1) := by
  unfold satInc
  split
  · subst ‹n = _›
    rfl
  · have h : n.toNat ≠ 0xFFFF := fun h => ‹¬ n = _› (BitVec.eq_of_toNat_eq (by simpa using h))
    have := n.isLt
    rw [BitVec.toNat_add, show (1 : BitVec 16).toNat = 1 from rfl, Nat.mod_eq_of_lt (by omega)]
    omega

@[simp] theorem Block.discardFrame_timeout_cntFraming (k : Block) :
    (k.discardFrame .timeout).cntFraming = satInc k.cntFraming := rfl
@[simp] theorem Block.discardFrame_overflow_cntFraming (k : Block) :
    (k.discardFrame .overflow).cntFraming = satInc k.cntFraming := rfl
@[simp] theorem Block.discardFrame_badEnd_cntFraming (k : Block) :
    (k.discardFrame .badEnd).cntFraming = satInc k.cntFraming := rfl
@[simp] theorem Block.discardFrame_checksum_cntFraming (k : Block) :
    (k.discardFrame .checksum).cntFraming = k.cntFraming := rfl
@[simp] theorem Block.discardFrame_timeout_cntChecksum (k : Block) :
    (k.discardFrame .timeout).cntChecksum = k.cntChecksum := rfl
@[simp] theorem Block.discardFrame_overflow_cntChecksum (k : Block) :
    (k.discardFrame .overflow).cntChecksum = k.cntChecksum := rfl
@[simp] theorem Block.discardFrame_badEnd_cntChecksum (k : Block) :
    (k.discardFrame .badEnd).cntChecksum = k.cntChecksum := rfl
@[simp] theorem Block.discardFrame_checksum_cntChecksum (k : Block) :
    (k.discardFrame .checksum).cntChecksum = satInc k.cntChecksum := rfl

theorem Block.timedOut_iff {c : Config} {k : Block} {t : Time} :
    k.timedOut c t = true ↔ k.rxState = .inFrame ∧ c.tTimeout < (t - k.rxLast).toNat := by
  unfold Block.timedOut Block.elapsed
  rw [Bool.and_eq_true, decide_eq_true_eq, decide_eq_true_eq]

theorem Block.frameEnds_iff {n : Nat} {k : Block} :
    k.frameEnds n = true ↔ 3 ≤ n ∧ n = (k.rxbuf.read 2).toNat + 5 := by
  simp [Block.frameEnds]

/-- Percent operands: the clamp as an integer (R150). -/
theorem clampPercent_toNat (p : Int) : ((clampPercent p).toNat : Int) = max 0 (min 100 p) := by
  unfold clampPercent
  split
  · show ((0 : Nat) : Int) = _
    omega
  · split
    · show ((100 : Nat) : Int) = _
      omega
    · rw [BitVec.toNat_ofInt]
      omega

/-! The parser. -/

/-- The cases of `feed`, as the transition table has them (R122). -/
inductive FeedCase (c : Config) (b : Byte) (t : Time) (k : Block) : Block → Res → Prop where
  /-- T3, T4. -/
  | late (h : k.timedOut c t = true) :
      FeedCase c b t k (((k.discardFrame .timeout).stamp t).awaitByte c b) (Res.invalid .timeout)
  /-- T1, T2. -/
  | await (h : k.rxState = .awaitingStart) : FeedCase c b t k ((k.stamp t).awaitByte c b) Res.incomplete
  /-- T5. -/
  | overflow (ht : k.timedOut c t = false) (h : k.rxState = .inFrame) (hn : k.rxCount.toNat = c.maxFrame) :
      FeedCase c b t k ((k.stamp t).discardFrame .overflow) (Res.invalid .overflow)
  /-- T6. -/
  | more (ht : k.timedOut c t = false) (h : k.rxState = .inFrame) (hn : k.rxCount.toNat < c.maxFrame)
      (he : ((k.stamp t).appendByte b (k.rxCount.toNat + 1)).frameEnds (k.rxCount.toNat + 1) = false) :
      FeedCase c b t k ((k.stamp t).appendByte b (k.rxCount.toNat + 1)) Res.incomplete
  /-- T7, T8, T9. -/
  | finish (ht : k.timedOut c t = false) (h : k.rxState = .inFrame) (hn : k.rxCount.toNat < c.maxFrame)
      (he : ((k.stamp t).appendByte b (k.rxCount.toNat + 1)).frameEnds (k.rxCount.toNat + 1) = true) (k' : Block)
      (r : Res) (hf : ((k.stamp t).appendByte b (k.rxCount.toNat + 1)).finishFrame c b (k.rxCount.toNat + 1) = (k', r)) :
      FeedCase c b t k k' r

/-- Everything `feed` can do. -/
theorem Block.feed_cases {c : Config} {b : Byte} {t : Time} {k k' : Block} {r : Res}
    (h : k.feed c b t = .ok (k', r)) : FeedCase c b t k k' r := by
  unfold Block.feed at h
  split at h
  · cases h
    exact .late ‹_›
  · have ht : k.timedOut c t = false := eq_false_of_ne_true ‹_›
    split at h
    · cases h
      exact .await ‹_›
    · unfold Block.accumulate at h
      split at h
      · cases h
        exact .overflow ht ‹_› ‹_›
      · cases e : onElement c .rxbuf (k.stamp t).rxCount.toNat
          ((k.stamp t).appendByte b ((k.stamp t).rxCount.toNat + 1)) with
        | error f =>
          rw [e] at h
          cases h
        | ok k1 =>
          obtain ⟨hn, rfl⟩ := onElement_ok_iff.1 e
          rw [e] at h
          simp only [Except.map, Except.ok.injEq, Block.endOrGoOn] at h
          split at h
          · exact .finish ht ‹_› hn ‹_› _ _ h
          · cases h
            exact .more ht ‹_› hn (eq_false_of_ne_true ‹_›)

/-- `feed` answers whenever `rx_count` is within the buffer. -/
theorem Block.feed_answers {c : Config} {b : Byte} {t : Time} {k : Block} (h : k.rxCount.toNat ≤ c.maxFrame) :
    ∃ q, k.feed c b t = .ok q := by
  unfold Block.feed
  split
  · exact ⟨_, rfl⟩
  · split
    · exact ⟨_, rfl⟩
    · unfold Block.accumulate
      split
      · exact ⟨_, rfl⟩
      · have hn : (k.stamp t).rxCount.toNat < Space.rxbuf.size c := Nat.lt_of_le_of_ne h ‹_›
        rw [onElement_ok_iff.2 ⟨hn, rfl⟩]
        exact ⟨_, rfl⟩

/-- Everything a byte at the expected END offset can do (R114, R115). -/
theorem Block.finishFrame_cases (c : Config) (b : Byte) (n : Nat) (k : Block) :
    (b ≠ c.endByte ∧ k.finishFrame c b n = (k.discardFrame .badEnd, Res.invalid .badEnd)) ∨
    (b = c.endByte ∧ digest c (k.rxbuf.readRange 1 (n - 3)) ≠ k.rxbuf.read (n - 2) ∧
      k.finishFrame c b n = (k.discardFrame .checksum, Res.invalid .checksum)) ∨
    (b = c.endByte ∧ digest c (k.rxbuf.readRange 1 (n - 3)) = k.rxbuf.read (n - 2) ∧
      k.finishFrame c b n =
        (k.latchFrame.parserReset, Res.complete (packBytes (k.rxbuf.read 1) (k.rxbuf.read 2)))) := by
  unfold Block.finishFrame Block.discardWith
  split
  · exact .inl ⟨‹_›, rfl⟩
  · split
    · exact .inr (.inl ⟨not_not.1 ‹_›, ‹_›, rfl⟩)
    · exact .inr (.inr ⟨not_not.1 ‹_›, not_not.1 ‹_›, rfl⟩)

/-- Everything `poll` can do (R120). -/
theorem Block.poll_cases (c : Config) (t : Time) (k : Block) :
    (k.timedOut c t = true ∧ k.poll c t = (k.discardFrame .timeout, Res.invalid .timeout)) ∨
    (k.timedOut c t = false ∧ k.poll c t = (k, Res.incomplete)) := by
  unfold Block.poll Block.discardWith
  split
  · exact .inl ⟨‹_›, rfl⟩
  · exact .inr ⟨eq_false_of_ne_true ‹_›, rfl⟩

/-! The encoder and the buffers. -/

/-- Everything `TXENC` can do (R101). -/
theorem Block.encodeStaged_cases (c : Config) (len : Nat) (cmd : Byte) (k : Block) :
    (c.nMax < len ∧ k.encodeStaged c len cmd = (k, Res.refused .badLength)) ∨
    (len ≤ c.nMax ∧ k.encodeStaged c len cmd =
      (k.storeFrame (k.stagedFrame c len cmd), Res.done (BitVec.ofNat 32 (len + 5)))) := by
  unfold Block.encodeStaged Block.refuse
  split
  · exact .inl ⟨‹_›, rfl⟩
  · exact .inr ⟨by omega, rfl⟩

/-- Everything `TXPWR` can do (R140). -/
theorem Block.stagePayload_cases (c : Config) (i : Nat) (b : Byte) (k : Block) :
    (c.nMax ≤ i ∧ k.stagePayload c i b = (k, Res.refused .badIndex)) ∨
    (i < c.nMax ∧ k.stagePayload c i b = (k.stage i b, Res.done 0)) := by
  unfold Block.stagePayload Block.refuse
  split
  · exact .inl ⟨‹_›, rfl⟩
  · exact .inr ⟨by omega, rfl⟩

/-- Everything `TXFRD` can do (R142). -/
theorem Block.readTxFrame_cases {c : Config} {i : Nat} {k k' : Block} {r : Res}
    (h : k.readTxFrame c i = .ok (k', r)) :
    k' = k ∧ ((k.txfLen.toNat ≤ i ∧ r = Res.refused .badIndex) ∨
      (i < k.txfLen.toNat ∧ r = Res.done (zext32 (k.txf.read i)))) := by
  unfold Block.readTxFrame Block.refuse at h
  split at h
  · cases h
    exact ⟨rfl, .inl ⟨‹_›, rfl⟩⟩
  · obtain ⟨-, h⟩ := onElement_ok_iff.1 h
    cases h
    exact ⟨rfl, .inr ⟨by omega, rfl⟩⟩

/-- Everything `RXFRD` can do (R143). -/
theorem Block.readRxPayload_cases {c : Config} {i : Nat} {k k' : Block} {r : Res}
    (h : k.readRxPayload c i = .ok (k', r)) :
    k' = k ∧ ((k.rxfValid = false ∨ k.rxfLen.toNat ≤ i) ∧ r = Res.refused .badIndex ∨
      k.rxfValid = true ∧ i < k.rxfLen.toNat ∧ r = Res.done (zext32 (k.rxfPayload.read i))) := by
  unfold Block.readRxPayload Block.refuse at h
  split at h
  · cases h
    exact ⟨rfl, .inl ⟨‹_›, rfl⟩⟩
  · obtain ⟨-, h⟩ := onElement_ok_iff.1 h
    cases h
    refine ⟨rfl, .inr ⟨?_, ?_, rfl⟩⟩
    · cases hv : k.rxfValid <;> simp_all
    · simp_all

/-- Everything `CSRRD` can do (R144). -/
theorem Block.readStatus_cases (c : Config) (i : Nat) (k : Block) :
    (∃ v, k.statusReg c i = some v ∧ k.readStatus c i = (k, Res.done v)) ∨
    (k.statusReg c i = none ∧ k.readStatus c i = (k, Res.refused .badIndex)) := by
  unfold Block.readStatus Block.refuse
  split
  · exact .inl ⟨_, ‹_›, rfl⟩
  · exact .inr ⟨‹_›, rfl⟩

/-! The limiter. -/

/-- Everything `RLSET` can do (R150, R151). -/
theorem Block.setTarget_cases {c : Config} {ch : Nat} {p : Int} {k k' : Block} {r : Res}
    (h : k.setTarget c ch p = .ok (k', r)) :
    (c.nCh ≤ ch ∧ k' = k ∧ r = Res.refused .badChannel) ∨
    (ch < c.nCh ∧ ch < k.channels.length ∧ k' = k.storeTarget ch (k.targetValue p) ∧
      r = Res.done (zext32 (k.targetValue p))) := by
  unfold Block.setTarget Block.refuse at h
  split at h
  · cases h
    exact .inl ⟨‹_›, rfl, rfl⟩
  · obtain ⟨x, hx, h⟩ := Block.onChannel_ok_iff.1 h
    cases h
    exact .inr ⟨by omega, (List.getElem?_eq_some_iff.1 hx).1, rfl, rfl⟩

/-- Everything `RLRD` can do (R156). -/
theorem Block.readChannel_cases {c : Config} {ch : Nat} {k k' : Block} {r : Res}
    (h : k.readChannel c ch = .ok (k', r)) :
    k' = k ∧ ((c.nCh ≤ ch ∧ r = Res.refused .badChannel) ∨
      (ch < c.nCh ∧ ∃ x, k.channels[ch]? = some x ∧ r = Res.done (packBytes x.actual x.target))) := by
  unfold Block.readChannel Block.refuse at h
  split at h
  · cases h
    exact ⟨rfl, .inl ⟨‹_›, rfl⟩⟩
  · obtain ⟨x, hx, h⟩ := Block.onChannel_ok_iff.1 h
    cases h
    exact ⟨rfl, .inr ⟨by omega, x, hx, rfl⟩⟩

/-! One operation, as a function of the block alone. -/

/-- What an operation does to the block and what it returns, from the parameters, `now` and the block
(00_scope.md R5). -/
def Block.perform (c : Config) (t : Time) (i : Instr) (k : Block) : Except Fault (Block × Res) :=
  match i with
  | .nop => .ok (k, Res.done 0)
  | .rxfeed b => k.feed c b t
  | .rxpoll => .ok (k.poll c t)
  | .txpwr i b => .ok (k.stagePayload c i.toNat b)
  | .txenc l x => .ok (k.encodeStaged c l.toNat x)
  | .txfrd i => k.readTxFrame c i.toNat
  | .rxfrd i => k.readRxPayload c i.toNat
  | .csrrd i => .ok (k.readStatus c i.toNat)
  | .rlset ch v => k.setTarget c ch.toNat v.toInt
  | .rladv => .ok (k.advance c, Res.done 0)
  | .rlrd ch => k.readChannel c ch.toNat
  | .estop => .ok (k.emergencyStop, Res.done 0)
  | .estopclr => .ok (k.clearStop, Res.done 0)
  | .reservedD => .ok (k.refuse .illegalOp)
  | .reservedE => .ok (k.refuse .illegalOp)
  | .sreset => .ok (Block.reset c, Res.done 0)

theorem exec_eq_perform (i : Instr) (s : State) : exec i s = s.complete (s.blk.perform s.cfg s.now i) := by
  cases i <;> rfl

theorem State.complete_next_iff {s t : State} {e : Except Fault (Block × Res)} :
    s.complete e = .next t ↔ ∃ k r, e = .ok (k, r) ∧ t = s.after k r := by
  rcases e with f | ⟨k, r⟩
  · simp [State.complete]
  · simp only [State.complete, Host.Outcome.next.injEq, Except.ok.injEq, Prod.mk.injEq]
    constructor
    · rintro rfl
      exact ⟨k, r, ⟨rfl, rfl⟩, rfl⟩
    · rintro ⟨_, _, ⟨rfl, rfl⟩, rfl⟩
      rfl

/-- Everything an operation that answers can do to the state: it leaves the block at some `k`, returns one result and
touches nothing else. -/
theorem exec_next_iff {i : Instr} {s t : State} :
    exec i s = .next t ↔ ∃ k r, s.blk.perform s.cfg s.now i = .ok (k, r) ∧ t = s.after k r := by
  rw [exec_eq_perform, State.complete_next_iff]

/-- No operation is refused by the model. -/
theorem exec_ne_refused (i : Instr) (s : State) (r : Refusal) : exec i s ≠ .refused r := by
  rw [exec_eq_perform]
  rcases s.blk.perform s.cfg s.now i with f | ⟨k, r'⟩ <;> simp [State.complete]

/-! The port. -/

theorem step_idle {s : State} (h : s.inputs = []) : step s = .next s := by
  simp [step, State.accept, h]

theorem step_resetPin {s : State} {rest : List PortEvent} (h : s.inputs = .resetPin :: rest) :
    step s = .next ({ s with inputs := rest } : State).resetBlock := by
  simp [step, State.accept, h]

theorem step_of_decode {s : State} {w : Word} {t : Time} {rest : List PortEvent} {i : Instr}
    (h : s.inputs = .operation w t :: rest) (hd : decode w = .ok i) :
    step s = exec i { s with inputs := rest, now := t } := by
  simp [step, State.accept, h, hd]

end Sys2Proof.Machine
end

