-- ==== Sys2Proof/Laws/HostSide.lean ====
section
/-! SUPPORT. What the duty of 70_reset_and_hazards.md R209 is for: a cycle that keeps it ends with every failing channel's
target safe, whatever else was asked for (44_ramp_limiter.md R162). -/

namespace Sys2Proof.Machine

theorem Block.awaitByte_channels (c : Config) (b : Byte) (k : Block) : (k.awaitByte c b).channels = k.channels := by
  unfold Block.awaitByte
  split <;> rfl

/-- No byte moves the limiter (R119). -/
theorem Block.feed_channels {c : Config} {b : Byte} {t : Time} {k k' : Block} {r : Res}
    (h : k.feed c b t = .ok (k', r)) : k'.channels = k.channels := by
  cases Block.feed_cases h with
  | late => simp [Block.awaitByte_channels]
  | await => simp [Block.awaitByte_channels]
  | overflow => simp
  | more => simp
  | finish _ _ _ _ _ _ hf =>
    obtain ⟨-, e⟩ | ⟨-, -, e⟩ | ⟨-, -, e⟩ := Block.finishFrame_cases c b (k.rxCount.toNat + 1)
      ((k.stamp t).appendByte b (k.rxCount.toNat + 1)) <;> rw [e] at hf <;> cases hf <;> simp

/-- The target of channel `ch`, where there is one, is safe. -/
def Block.TargetSafe (k : Block) (ch : Nat) : Prop := ∀ x, k.channels[ch]? = some x → x.target = Config.safe

theorem Block.TargetSafe.of_channels_eq {k k' : Block} {ch : Nat} (h : k.TargetSafe ch)
    (e : k'.channels = k.channels) : k'.TargetSafe ch := fun x hx => h x (e ▸ hx)

theorem Block.targetValue_zero (k : Block) : k.targetValue 0 = Config.safe := by
  unfold Block.targetValue
  split <;> rfl

/-- An `RLSET` to another channel, or of 0, keeps a safe target safe (R150). -/
theorem Block.TargetSafe.storeTarget {k : Block} {ch ch' : Nat} {p : Int} (h : k.TargetSafe ch)
    (hp : ch' = ch → p = 0) : (k.storeTarget ch' (k.targetValue p)).TargetSafe ch := by
  intro x hx
  simp only [Block.storeTarget_channels, List.getElem?_modify] at hx
  obtain ⟨y, hy, rfl⟩ := Option.map_eq_some_iff.1 hx
  split
  · rw [hp ‹_›, Block.targetValue_zero]
  · exact h y hy

/-- An advance keeps every target (R153). -/
theorem Block.TargetSafe.advance {k : Block} {ch : Nat} (h : k.TargetSafe ch) (c : Config) :
    (k.advance c).TargetSafe ch := by
  intro x hx
  simp only [Block.advance_channels, List.getElem?_zipWith] at hx
  split at hx
  · rename_i r y _ hy
    obtain rfl := Option.some.inj hx
    exact h y hy
  · cases hx

/-- Only an `RLSET` of another value to the same channel ends the safety of a target (R162). -/
theorem TargetSafe.exec {i : Instr} {s t : State} {ch : BitVec 4} (h : s.blk.TargetSafe ch.toNat)
    (hi : ∀ v, i = .rlset ch v → v = 0) (he : Machine.exec i s = .next t) : t.blk.TargetSafe ch.toNat := by
  obtain ⟨k, r, hk, rfl⟩ := exec_next_iff.1 he
  change k.TargetSafe ch.toNat
  cases i <;> simp only [Block.perform, Except.ok.injEq] at hk
  case nop => cases hk; exact h
  case rxfeed b => exact h.of_channels_eq (Block.feed_channels hk)
  case rxpoll =>
    obtain ⟨-, e⟩ | ⟨-, e⟩ := Block.poll_cases s.cfg s.now s.blk <;> rw [e] at hk <;> cases hk
    · exact h.of_channels_eq (by simp)
    · exact h
  case txpwr i b =>
    obtain ⟨-, e⟩ | ⟨-, e⟩ := Block.stagePayload_cases s.cfg i.toNat b s.blk <;> rw [e] at hk <;> cases hk <;> exact h
  case txenc l x =>
    obtain ⟨-, e⟩ | ⟨-, e⟩ := Block.encodeStaged_cases s.cfg l.toNat x s.blk <;> rw [e] at hk <;> cases hk <;> exact h
  case txfrd i => exact (Block.readTxFrame_cases hk).1 ▸ h
  case rxfrd i => exact (Block.readRxPayload_cases hk).1 ▸ h
  case csrrd i =>
    obtain ⟨v, -, e⟩ | ⟨-, e⟩ := Block.readStatus_cases s.cfg i.toNat s.blk <;> rw [e] at hk <;> cases hk <;> exact h
  case rlset ch' v =>
    obtain ⟨-, rfl, -⟩ | ⟨-, -, rfl, -⟩ := Block.setTarget_cases hk
    · exact h
    · refine h.storeTarget fun hc => ?_
      obtain rfl := BitVec.eq_of_toNat_eq hc
      rw [hi v rfl]
      rfl
  case rladv => cases hk; exact h.advance s.cfg
  case rlrd ch' => exact (Block.readChannel_cases hk).1 ▸ h
  case estop =>
    cases hk
    intro x hx
    simp only [Block.emergencyStop_channels, List.getElem?_map] at hx
    obtain ⟨-, -, rfl⟩ := Option.map_eq_some_iff.1 hx
    rfl
  case estopclr => cases hk; exact h
  case reservedD => cases hk; exact h
  case reservedE => cases hk; exact h
  case sreset =>
    cases hk
    intro x hx
    simp only [Block.reset_channels] at hx
    rw [List.eq_of_mem_replicate (List.mem_of_getElem? hx)]

/-- `RLSET ch, 0` leaves the target of a channel that exists safe (R150, R163). -/
theorem targetSafe_of_rlset_zero {s t : State} {ch : BitVec 4} (hc : ch.toNat < s.cfg.nCh)
    (he : exec (.rlset ch 0) s = .next t) : t.blk.TargetSafe ch.toNat := by
  obtain ⟨k, r, hk, rfl⟩ := exec_next_iff.1 he
  obtain ⟨hn, -, -⟩ | ⟨-, -, e, -⟩ := Block.setTarget_cases hk
  · omega
  · change k.TargetSafe ch.toNat
    rw [e]
    intro x hx
    simp only [Block.storeTarget_channels, List.getElem?_modify] at hx
    obtain ⟨y, -, rfl⟩ := Option.map_eq_some_iff.1 hx
    exact Block.targetValue_zero s.blk

/-- The operations of a cycle, one after the other; none where one stops. -/
def execAll : List CycleOp → State → Option State
  | [], s => some s
  | o :: os, s =>
    match exec o.op s with
    | .next t => execAll os t
    | .fault _ => none
    | .refused _ => none

theorem execAll_cons {o : CycleOp} {os : List CycleOp} {s t : State} :
    execAll (o :: os) s = some t ↔ ∃ u, exec o.op s = .next u ∧ execAll os u = some t := by
  rw [execAll]
  cases exec o.op s <;> simp

/-- Once a forced write has come, the rest of an orderly cycle writes nothing but the safe value. -/
theorem TargetSafe.execAll {os : List CycleOp} {s t : State} {ch : BitVec 4} (h : s.blk.TargetSafe ch.toNat)
    (ho : HostDuty.forcedLast true os = true) (he : execAll os s = some t) : t.blk.TargetSafe ch.toNat := by
  induction os generalizing s with
  | nil => exact Option.some.inj he ▸ h
  | cons o os ih =>
    obtain ⟨u, hu, he⟩ := execAll_cons.1 he
    simp only [HostDuty.forcedLast, Bool.true_or, Bool.and_eq_true] at ho
    refine ih (TargetSafe.exec h (fun v hv => ?_) hu) ho.2 he
    have ho1 := ho.1
    rw [hv] at ho1
    simp only at ho1
    split at ho1
    · exact beq_iff_eq.1 ho1
    · cases ho1

theorem exec_cfg {i : Instr} {s t : State} (h : exec i s = .next t) : t.cfg = s.cfg := by
  obtain ⟨_, _, -, rfl⟩ := exec_next_iff.1 h
  rfl

/-- R162, R209: after a control cycle that keeps the duty, the target of every channel whose interlock fails in it is safe,
whatever the dispatcher or the plant asked for. -/
theorem targetSafe_of_targetOrder {failing : List (BitVec 4)} {cycle : List CycleOp} {s t : State} {ch : BitVec 4}
    (hd : HostDuty.targetOrder failing cycle = true) (hch : ch ∈ failing) (hc : ch.toNat < s.cfg.nCh)
    (he : execAll cycle s = some t) : t.blk.TargetSafe ch.toNat := by
  simp only [HostDuty.targetOrder, Bool.and_eq_true, HostDuty.failingForced, List.all_eq_true] at hd
  obtain ⟨⟨-, ho⟩, hf⟩ := hd
  obtain ⟨o, hm, ho'⟩ := List.any_eq_true.1 (hf ch hch)
  obtain rfl := beq_iff_eq.1 ho'
  have hmem := (List.takeWhile_sublist _).subset hm
  clear hf hm ho' hch
  revert ho
  generalize false = forced
  intro ho
  induction cycle generalizing s forced with
  | nil => cases hmem
  | cons o os ih =>
    obtain ⟨u, hu, ht⟩ := execAll_cons.1 he
    simp only [HostDuty.forcedLast, Bool.and_eq_true] at ho
    rcases List.mem_cons.1 hmem with rfl | hm
    · refine TargetSafe.execAll (targetSafe_of_rlset_zero hc hu) ?_ ht
      simpa [CycleOp.isForced] using ho.2
    · exact ih (exec_cfg hu ▸ hc) ht hm _ ho.2

end Sys2Proof.Machine
end

