-- ==== Sys2Proof/Laws/PerInstr.lean ====
section
/-! SUPPORT. The family `CodeField`, one lemma per operation: the encoded word carries the operation's code, and the row
of that code in 30_encoding.md R77 has the operation's mnemonic. -/

namespace Sys2Proof.Laws.CodeField

/-- The word's `code` field numbers the row of R77 with the operation's mnemonic. -/
def Statement (i : Instr) : Prop :=
  (opcodeRows.map OpcodeRow.mnemonic)[(opwCode (encode i)).toNat]? = some i.mnemonic

/-- A word assembled with a code, whose row has the mnemonic. -/
theorem of_code {i : Instr} {c ch : BitVec 4} {x : Byte} {v : BitVec 16} (he : encode i = opwOf c ch x v)
    (hm : (opcodeRows.map OpcodeRow.mnemonic)[c.toNat]? = some i.mnemonic) : Statement i := by
  rw [Statement, he, opwCode_opwOf, hm]

theorem nop : Statement (.nop) := of_code rfl rfl
theorem rxfeed (b : Byte) : Statement (.rxfeed b) := of_code rfl rfl
theorem rxpoll : Statement (.rxpoll) := of_code rfl rfl
theorem txpwr (i b : Byte) : Statement (.txpwr i b) := of_code rfl rfl
theorem txenc (l x : Byte) : Statement (.txenc l x) := of_code rfl rfl
theorem txfrd (i : Byte) : Statement (.txfrd i) := of_code rfl rfl
theorem rxfrd (i : Byte) : Statement (.rxfrd i) := of_code rfl rfl
theorem csrrd (i : Byte) : Statement (.csrrd i) := of_code rfl rfl
theorem rlset (ch : BitVec 4) (v : BitVec 16) : Statement (.rlset ch v) := of_code rfl rfl
theorem rladv : Statement (.rladv) := of_code rfl rfl
theorem rlrd (ch : BitVec 4) : Statement (.rlrd ch) := of_code rfl rfl
theorem estop : Statement (.estop) := of_code rfl rfl
theorem estopclr : Statement (.estopclr) := of_code rfl rfl
theorem reservedD : Statement (.reservedD) := of_code rfl rfl
theorem reservedE : Statement (.reservedE) := of_code rfl rfl
theorem sreset : Statement (.sreset) := of_code rfl rfl

end Sys2Proof.Laws.CodeField
end

