-- ==== Sys2Proof/Tests/Slice0.lean ====
section
/-! SUPPORT. Own tests: the checks of WellFormed, words written out from 30_encoding.md R76 and R77, one step of each
operation on the vectors of 95_test_vectors.md, and a witness for the hypotheses of every statement. -/

namespace Sys2Proof.Tests

open Machine

/-! Small states. -/

/-- The reset block of the reference instance. -/
def idleBlock : Block := Block.reset Config.reference

/-- A parser that holds these bytes, the last fed at `t`. -/
def feeding (bs : List Byte) (t : Time) : Block :=
  { idleBlock with
    rxState := .inFrame, rxCount := BitVec.ofNat 8 bs.length, rxbuf := Memory.writeList [] 0 bs, rxLast := t }

/-- An encoder that holds this frame. -/
def holding (f : List Byte) : Block :=
  { idleBlock with txf := Memory.writeList [] 0 f, txfLen := BitVec.ofNat 8 f.length }

/-- A latch that holds this frame. -/
def latching (cmd : Byte) (payload : List Byte) : Block :=
  { idleBlock with
    rxfValid := true, rxfCmd := cmd, rxfLen := BitVec.ofNat 8 payload.length
    rxfPayload := Memory.writeList [] 0 payload }

/-- A staging buffer that holds this payload. -/
def staging (payload : List Byte) : Block := { idleBlock with txp := Memory.writeList [] 0 payload }

/-- The three channels of the reference instance. -/
def moving (a b c : Channel) : Block := { idleBlock with channels := [a, b, c] }

/-- The state with this block, as an operation sampled `now` at `t`. -/
def at_ (k : Block) (t : Time) : State := { State.reset with blk := k, now := t }

/-- One step of the reference instance: the block after it and the packed result. -/
def run1 (k : Block) (w : Word) (t : Time) : Option (Block × List (BitVec 64)) :=
  match step { State.reset with blk := k, inputs := [.operation w t] } with
  | .next s => some (s.blk, s.results.map packRes)
  | .fault _ => none
  | .refused _ => none

/-! WellFormed. -/

theorem test_reference_wf : Config.reference.wf = true := by decide
theorem test_sentinels_equal_refused : { Config.reference with endByte := 0x02 }.wf = false := by decide
theorem test_nMax_7_refused : { Config.reference with nMax := 7 }.wf = false := by decide
theorem test_nMax_251_refused : { Config.reference with nMax := 251 }.wf = false := by decide
theorem test_timeout_0_refused : { Config.reference with tTimeout := 0 }.wf = false := by decide
theorem test_timeout_2_31_refused : { Config.reference with tTimeout := 2 ^ 31 }.wf = false := by decide
theorem test_no_channel_refused : { Config.reference with ramps := [] }.nChInRange = false := by decide
theorem test_17_channels_refused : { Config.reference with ramps := List.replicate 17 ⟨2, 1⟩ }.wf = false := by decide
theorem test_ramp_0_refused : { Config.reference with ramps := [⟨2, 0⟩] }.wf = false := by decide
theorem test_ramp_101_refused : { Config.reference with ramps := [⟨101, 1⟩] }.wf = false := by decide
theorem test_symmetric_ramps_refused : { Config.reference with ramps := [⟨5, 5⟩] }.wf = false := by decide
theorem test_command_is_sentinel_refused :
    { Config.reference with host := { Config.reference.host with cmdPing := 0x02 } }.wf = false := by decide
theorem test_equal_commands_refused :
    { Config.reference with host := { Config.reference.host with cmdPing := 0x06 } }.wf = false := by decide
theorem test_burst_0_refused :
    { Config.reference with host := { Config.reference.host with rxBurstMax := 0 } }.wf = false := by decide
theorem test_nak_on_checksum_refused :
    { Config.reference with host := { Config.reference.host with nakOnFraming := [.checksum] } }.wf = false := by decide
theorem test_reserved_not_wf : Instr.reservedD.wf = false ∧ Instr.reservedE.wf = false := by decide

/-! Decoding: fields `code ch idx val` (R76, R77). -/

theorem test_decode_nop : decode 0b0000_1111_11111111_1111111111111111 = .ok .nop := by decide
theorem test_decode_rxfeed : decode 0b0001_0000_11111111_00000001_00000010 = .ok (.rxfeed 0x02) := by decide
theorem test_decode_rxpoll : decode 0b0010_0000_00000000_0000000000000000 = .ok .rxpoll := by decide
theorem test_decode_txpwr : decode 0b0011_0000_00001111_00010010_10101011 = .ok (.txpwr 15 0xAB) := by decide
theorem test_decode_txenc : decode 0b0100_0000_00000111_00000000_01010101 = .ok (.txenc 7 0x55) := by decide
theorem test_decode_txfrd : decode 0b0101_0000_00010100_0000000000000000 = .ok (.txfrd 20) := by decide
theorem test_decode_rxfrd : decode 0b0110_0000_00000110_0000000000000000 = .ok (.rxfrd 6) := by decide
theorem test_decode_csrrd : decode 0b0111_0000_00001001_0000000000000000 = .ok (.csrrd 9) := by decide
theorem test_decode_rlset : decode 0b1000_0011_11111111_1000000000000001 = .ok (.rlset 3 0x8001) := by decide
theorem test_decode_rladv : decode 0b1001_1010_10111100_1101111011110000 = .ok .rladv := by decide
theorem test_decode_rlrd : decode 0b1010_0010_00000000_0000000000000000 = .ok (.rlrd 2) := by decide
theorem test_decode_estop : decode 0b1011_0000_00000000_0000000000000001 = .ok .estop := by decide
theorem test_decode_estopclr : decode 0b1100_0000_00000000_0000000000000000 = .ok .estopclr := by decide
theorem test_decode_reservedD : decode 0b1101_0000_00000000_0000000000000000 = .ok .reservedD := by decide
theorem test_decode_reservedE : decode 0b1110_0001_00100011_0100010101100111 = .ok .reservedE := by decide
theorem test_decode_sreset : decode 0b1111_0000_00000000_0000000000000000 = .ok .sreset := by decide

/-- The words the vectors V-E4, V-B3, V-R6 and V-R9 give for these lines (R84). -/
theorem test_lines_assemble :
    (readLine "TXENC 7, 0x55").map (fun l => encode l.op) = some 0x40070055 ∧
    (readLine "TXPWR 15, 0xAB @12 ; last").map (fun l => (encode l.op, l.stamp)) = some (0x300F00AB, some 12) ∧
    (readLine "RLSET 0, -100").map (fun l => encode l.op) = some 0x8000FF9C ∧
    (readLine "RLRD 3").map (fun l => encode l.op) = some 0xA3000000 ∧
    (readLine "RLSET 16, 1").isNone = true := by decide

/-- `RXBYTES 02 50 @7 +3` is two lines (R85). -/
theorem test_rxbytes : traceOf (rxBytes [0x02, 0x50] 7 3) =
    [.operation 0x10000002 7, .operation 0x10000050 10] := by decide

theorem test_table_word : decodeTableWord 32 0xA2000000 = some (.rlrd 2) ∧ decodeTableWord 40 0xA2000000 = none := by decide

theorem test_fetch_word :
    (State.reset.withFetchWord 32 0x300F00AB).inputs = [.operation 0x300F00AB 0] := by decide

theorem test_memory_canonical :
    Memory.writeList [] 2 [0x07, 0x00, 0x09] = [(2, 0x07), (4, 0x09)] ∧
      Memory.write [(2, 0x07), (4, 0x09)] 2 0x00 = [(4, 0x09)] := by decide

/-- W1: the request payload, and the reply frame with scaled value 0x64. -/
theorem test_worked_example :
    updateRequestPayload ⟨0x447A0000, 2, 2, 2⟩ = [0x00, 0x00, 0x7A, 0x44, 0x02, 0x02, 0x02] ∧
    encodeFrame Config.reference 0x06 (updateAckPayload 0x3F800000 0x64 ⟨0x447A0000, 2, 2, 2⟩) =
      [0x02, 0x06, 0x08, 0x00, 0x00, 0x80, 0x3F, 0x64, 0x02, 0x02, 0x02, 0xC3, 0x03] := by decide +kernel

/-- X5: the forced write comes last and every failing channel has one; without it, or before the command, the duty is
broken. -/
theorem test_target_order :
    HostDuty.targetOrder [1] [⟨.dispatcher, .rlset 1 50⟩, ⟨.interlock, .rlset 1 0⟩, ⟨.dispatcher, .rladv⟩] = true ∧
    HostDuty.targetOrder [1] [⟨.interlock, .rlset 1 0⟩, ⟨.plantStateMachine, .rlset 1 50⟩, ⟨.dispatcher, .rladv⟩] = false ∧
    HostDuty.targetOrder [1] [⟨.dispatcher, .rlset 1 0⟩, ⟨.dispatcher, .rladv⟩] = false ∧
    HostDuty.targetOrder [1] [⟨.dispatcher, .rladv⟩, ⟨.interlock, .rlset 1 0⟩] = false := by decide

/-! One step. -/

/-- V-S2. -/
theorem test_nop : run1 (latching 0x50 []) 0x0FFFFFFF 9 = some (latching 0x50 [], [0]) := by decide

/-- V-P7: `BAD_END` before `CHECKSUM`, one count. -/
theorem test_rxfeed_bad_end :
    run1 (feeding [0x02, 0x50, 0x00, 0x0D] 0) 0x10000004 0 =
      some ({ idleBlock with rxbuf := [(0, 0x02), (1, 0x50), (3, 0x0D), (4, 0x04)], cntFraming := 1 },
        [0x3200000000]) := by decide

/-- V-P4a, its last byte: COMMAND is `START`, one payload byte. -/
theorem test_rxfeed_complete :
    (run1 (feeding [0x02, 0x02, 0x01, 0xAA, 0x9C] 0) 0x10000003 0).map
        (fun p => (p.1.rxState, p.1.rxfCmd, p.1.rxfPayload.readRange 0 p.1.rxfLen.toNat, p.2)) =
      some (.awaitingStart, 0x02, [0xAA], [0x0100000102]) := by decide +kernel

/-- V-P18b: 101 ticks across the wrap of `now`. -/
theorem test_rxpoll_timeout :
    run1 (feeding [0x02, 0x50] 0xFFFFFFF8) 0x20000000 0x5D =
      some ({ feeding [0x02, 0x50] 0xFFFFFFF8 with rxState := .awaitingStart, rxCount := 0, cntFraming := 1 },
        [0x1200000000]) := by decide

/-- V-P18a: 100 ticks. -/
theorem test_rxpoll_waits :
    run1 (feeding [0x02, 0x50] 0xFFFFFFF8) 0x20000000 0x5C =
      some (feeding [0x02, 0x50] 0xFFFFFFF8, [0]) := by decide

/-- V-B6. -/
theorem test_txpwr_low_byte : run1 idleBlock 0x30001234 0 = some (staging [0x34], [0]) := by decide

/-- V-B4. -/
theorem test_txpwr_bad_index : run1 idleBlock 0x30100000 0 = some (idleBlock, [0x9300000000]) := by decide

/-- V-E11. -/
theorem test_txenc :
    (run1 (staging [0xFF]) 0x40010041 0).map (fun p => (p.1.txf.readRange 0 6, p.1.txfLen, p.2)) =
      some ([0x02, 0x41, 0x01, 0xFF, 0x0B, 0x03], 6, [6]) := by decide +kernel

/-- V-E12. -/
theorem test_txenc_bad_length : run1 idleBlock 0x40110041 0 = some (idleBlock, [0xA300000000]) := by decide

/-- V-B7. -/
theorem test_txfrd : (run1 (holding [0x02, 0x41, 0x01, 0x34, 0x74, 0x03]) 0x50050000 0).map Prod.snd = some [0x03] ∧
    (run1 (holding [0x02, 0x41, 0x01, 0x34, 0x74, 0x03]) 0x50060000 0).map Prod.snd = some [0x9300000000] := by decide

/-- V-B14. -/
theorem test_rxfrd : (run1 (latching 0x41 [0xFF]) 0x60000000 0).map Prod.snd = some [0xFF] ∧
    (run1 (latching 0x41 [0xFF]) 0x60010000 0).map Prod.snd = some [0x9300000000] := by decide

/-- V-B13: STATUS with every field set. -/
theorem test_csrrd_status :
    (run1 { feeding [0x02, 0x50] 601 with rxfValid := true, estop := true } 0x70000000 0).map Prod.snd =
      some [0x0207] := by decide

/-- V-B10 and V-B12. -/
theorem test_csrrd_limits : (run1 idleBlock 0x70090000 0).map Prod.snd = some [0x031510] ∧
    (run1 idleBlock 0x70130000 0).map Prod.snd = some [0x9300000000] := by decide

/-- V-R2, V-R6. -/
theorem test_rlset_clamps : (run1 idleBlock 0x80000065 0).map Prod.snd = some [0x64] ∧
    (run1 (moving ⟨7, 7⟩ ⟨0, 0⟩ ⟨0, 0⟩) 0x8000FF9C 0).map Prod.fst = some (moving ⟨0, 7⟩ ⟨0, 0⟩ ⟨0, 0⟩) := by decide

/-- V-R22. -/
theorem test_rlset_estop :
    run1 { idleBlock with estop := true } 0x80000032 0 = some ({ idleBlock with estop := true }, [0]) := by decide

/-- V-R16, the 10th `RLADV`, and V-R12, its last step. -/
theorem test_rladv_up :
    (run1 (moving ⟨100, 18⟩ ⟨12, 10⟩ ⟨100, 90⟩) 0x90000000 0).map Prod.fst =
      some (moving ⟨100, 20⟩ ⟨12, 12⟩ ⟨100, 100⟩) := by decide

/-- V-R15, V-R20, V-R14. -/
theorem test_rladv_down :
    (run1 (moving ⟨3, 6⟩ ⟨0, 12⟩ ⟨91, 95⟩) 0x90000000 0).map Prod.fst =
      some (moving ⟨3, 5⟩ ⟨0, 7⟩ ⟨91, 91⟩) := by decide

/-- W2, V-R9. -/
theorem test_rlrd : (run1 (moving ⟨100, 98⟩ ⟨0, 0⟩ ⟨0, 0⟩) 0xA0000000 0).map Prod.snd = some [0x6462] ∧
    (run1 idleBlock 0xA3000000 0).map Prod.snd = some [0xB300000000] := by decide

/-- V-R21. -/
theorem test_estop :
    run1 (moving ⟨100, 40⟩ ⟨0, 7⟩ ⟨100, 100⟩) 0xB0000001 0 = some ({ idleBlock with estop := true }, [0]) := by decide

/-- V-R25. -/
theorem test_estopclr : run1 { idleBlock with estop := true } 0xC0000000 0 = some (idleBlock, [0]) := by decide

/-- V-S3, V-S4. -/
theorem test_reserved : run1 (latching 0x50 []) 0xD0000000 0 = some (latching 0x50 [], [0x8300000000]) ∧
    run1 (latching 0x50 []) 0xE1234567 0 = some (latching 0x50 [], [0x8300000000]) := by decide

/-- V-S8. -/
theorem test_sreset :
    run1 { holding [0x02, 0x50, 0x00, 0x0C, 0x03] with cntFraming := 3, estop := true } 0xF0000000 0 =
      some (idleBlock, [0]) := by decide

/-! Witnesses. -/

/-- A decidable sufficient condition for `Memory.Fits`. -/
def fitsCheck (m : Memory) (n : Nat) : Bool := m.wf && m.all fun p => decide (p.1 < n)

theorem read_of_all_lt {m : Memory} {n a : Nat} (h : m.all (fun p => decide (p.1 < n)) = true) (ha : n ≤ a) :
    m.read a = Memory.unlisted := by
  induction m with
  | nil => rfl
  | cons p m ih =>
    obtain ⟨b, v⟩ := p
    simp only [List.all_cons, Bool.and_eq_true, decide_eq_true_eq] at h
    rw [Memory.read, if_neg (by omega)]
    exact ih h.2

theorem fits_of_check {m : Memory} {n : Nat} (h : fitsCheck m n = true) : m.Fits n := by
  simp only [fitsCheck, Bool.and_eq_true] at h
  exact ⟨h.1, fun a ha => read_of_all_lt h.2 ha⟩

/-- A decidable sufficient condition for the invariant. -/
def invCheck (s : State) : Bool :=
  s.cfg.wf &&
  decide ((s.blk.rxState = .awaitingStart ↔ s.blk.rxCount = 0) ∧ s.blk.rxCount.toNat ≤ s.cfg.maxFrame ∧
    (s.blk.rxState = .inFrame → s.blk.rxbuf.read 0 = s.cfg.start) ∧
    (s.blk.rxState = .inFrame → 3 ≤ s.blk.rxCount.toNat → s.blk.rxCount.toNat < (s.blk.rxbuf.read 2).toNat + 5)) &&
  decide (s.blk.rxfLen.toNat ≤ s.cfg.nMax ∧
    (s.blk.txfLen = 0 ∨ 5 ≤ s.blk.txfLen.toNat ∧ s.blk.txfLen.toNat ≤ s.cfg.maxFrame) ∧
    (s.blk.txfLen ≠ 0 → validFrame s.cfg (s.blk.txf.readRange 0 s.blk.txfLen.toNat))) &&
  (fitsCheck s.blk.rxbuf s.cfg.maxFrame && fitsCheck s.blk.rxfPayload s.cfg.nMax && fitsCheck s.blk.txp s.cfg.nMax &&
    fitsCheck s.blk.txf s.cfg.maxFrame) &&
  decide (s.blk.channels.length = s.cfg.nCh ∧ (∀ x ∈ s.blk.channels, x.target.toNat ≤ 100 ∧ x.actual.toNat ≤ 100) ∧
    (s.blk.estop = true → ∀ x ∈ s.blk.channels, x.target = Config.safe ∧ x.actual = Config.safe))

theorem inv_of_check {s : State} (h : invCheck s = true) : s.Inv := by
  simp only [invCheck, Bool.and_eq_true, decide_eq_true_eq] at h
  obtain ⟨⟨⟨⟨h1, h2, h3, h4, h5⟩, h6, h7, h8⟩, ⟨⟨h9, h10⟩, h11⟩, h12⟩, h13, h14, h15⟩ := h
  exact ⟨h1, h2, h3, h4, h5, h6, h7, h8, fits_of_check h9, fits_of_check h10, fits_of_check h11, fits_of_check h12,
    h13, h14, h15⟩

/-- The outcome is a next state of which `p` holds. -/
def answers (o : Host.Outcome State Fault Refusal) (p : State → Bool) : Bool :=
  match o with
  | .next t => p t
  | .fault _ => false
  | .refused _ => false

theorem exists_next {o : Host.Outcome State Fault Refusal} {P : State → Prop} [DecidablePred P]
    (h : answers o (fun t => decide (P t)) = true) : ∃ t, o = .next t ∧ P t := by
  cases o with
  | next t => exact ⟨t, rfl, of_decide_eq_true h⟩
  | fault _ => cases h
  | refused _ => cases h

/-- An instance whose digest is `XOR8`, for the statements about legal instances. -/
def xorConfig : Config := { Config.reference with digestSel := .xor8 }

theorem xor_foldl_injective (bs : List Byte) {x y : Byte}
    (h : bs.foldl (fun c b => c ^^^ b) x = bs.foldl (fun c b => c ^^^ b) y) : x = y := by
  induction bs generalizing x y with
  | nil => exact h
  | cons b bs ih => exact BitVec.xor_left_inj b |>.mp (ih h)

theorem xorConfig_legal : xorConfig.Legal where
  params := by decide
  sensitive := by
    intro front back x y hxy _ _ h
    simp only [digest, xorConfig, xor8, List.foldl_append, List.foldl_cons] at h
    exact hxy (BitVec.xor_right_inj _ |>.mp (xor_foldl_injective back h))

/-- Reset with these events to come. -/
def presented (c : Config) (es : List PortEvent) : State := { State.resetOf c with inputs := es }

/-- Bytes at consecutive ticks. -/
def ticked (bs : List Byte) : List (Byte × Time) := bs.zipIdx.map fun p => (p.1, BitVec.ofNat 32 p.2)

/-- The limiter of the reference instance, one channel down, one up, one at its target. -/
def ramping : Block := moving ⟨0, 3⟩ ⟨12, 10⟩ ⟨50, 50⟩

theorem witness_DecodeAndEncodeAgree : decode 0x9ABCDEF0 = .ok .rladv ∧ decode 0x10FF0102 = .ok (.rxfeed 2) := by decide

theorem witness_EveryWordSelectsOneRow : (⟨"SRESET", 0xF0000000, 0xF0000000⟩ : OpcodeRow) ∈ opcodeRows := by decide

theorem witness_UnusedFieldsAreIgnored :
    decode 0x10000002 = .ok (.rxfeed 2) ∧
      0x1FFFFF02 &&& (Instr.rxfeed 2).usedBits = 0x10000002 &&& (Instr.rxfeed 2).usedBits := by decide

theorem witness_StepPerformsPresentedOperation :
    (presented Config.reference [.operation 0x10000002 7]).inputs = .operation 0x10000002 7 :: [] ∧
      decode 0x10000002 = .ok (.rxfeed 2) ∧ decode (BitVec.ofNat 32 0xF0000000) = .ok .sreset := by decide

theorem witness_ResetPinAndIdle :
    (presented Config.reference [.resetPin]).inputs = .resetPin :: [] ∧ State.reset.inputs = [] := by decide

theorem witness_StepAlwaysCompletes :
    (presented Config.reference []).Inv ∧ (presented Config.reference [.resetPin]).Inv ∧
      (presented Config.reference [.operation 0x10000002 7]).Inv :=
  ⟨inv_of_check (by decide), inv_of_check (by decide), inv_of_check (by decide)⟩

theorem witness_StepKeepsInvariant :
    (presented Config.reference [.operation 0x10000002 7]).Inv ∧
      ∃ t, step (presented Config.reference [.operation 0x10000002 7]) = .next t :=
  ⟨inv_of_check (by decide), _, rfl⟩

theorem witness_ResetMeetsInvariant : xorConfig.wf = true := by decide

theorem witness_ParametersNeverChange : ∃ t, step (presented Config.reference [.operation 0xF0000000 7]) = .next t :=
  ⟨_, rfl⟩

theorem witness_ResetValues :
    (∃ t, exec .sreset State.reset = .next t ∧ (⟨0, 0⟩ : Channel) ∈ t.blk.channels) ∧
    (∃ t, (presented Config.reference [.resetPin]).inputs = .resetPin :: [] ∧
      step (presented Config.reference [.resetPin]) = .next t) ∧
    Config.reference.wf = true ∧ Config.reference.ramps[2]? = some ⟨10, 10⟩ :=
  ⟨⟨_, rfl, by decide⟩, ⟨_, rfl, rfl⟩, by decide, rfl⟩

theorem witness_NopChangesNothing : opwCode 0x0FFFFFFF = 0x0 := by decide

theorem witness_SresetResetsTheBlock : opwCode 0xFFFFFFFF = 0xF := by decide

theorem witness_ReservedCodesAreRefused : opwCode 0xDFFFFFFF = 0xD ∧ opwCode 0xE0000000 = 0xE := by decide

/-- The last element, and the first index beyond. -/
theorem witness_TxpwrStoresOneByte :
    opwCode 0x30001234 = 0x3 ∧ State.reset.blk.txp.wf = true ∧ (15 : Byte).toNat < State.reset.cfg.nMax ∧
      State.reset.cfg.nMax ≤ (16 : Byte).toNat := by decide

/-- A reference state that holds an encoded frame. -/
def encoded : State := at_ (holding [0x02, 0x50, 0x00, 0x0C, 0x03]) 0

theorem encoded_inv : encoded.Inv := inv_of_check (by decide +kernel)

theorem witness_TxfrdReadsTheFrame :
    opwCode 0x50000000 = 0x5 ∧ encoded.Inv ∧ (4 : Byte).toNat < encoded.blk.txfLen.toNat ∧
      encoded.blk.txfLen.toNat ≤ (5 : Byte).toNat :=
  ⟨by decide, encoded_inv, by decide, by decide⟩

/-- A reference state whose latch holds a frame. -/
def latched : State := at_ (latching 0x41 [0xAA, 0xFF]) 0

theorem latched_inv : latched.Inv := inv_of_check (by decide)

theorem witness_RxfrdReadsTheLatch :
    opwCode 0x60000000 = 0x6 ∧ latched.Inv ∧ latched.blk.rxfValid = true ∧ (1 : Byte).toNat < latched.blk.rxfLen.toNat ∧
      latched.blk.rxfLen.toNat ≤ (2 : Byte).toNat ∧ State.reset.blk.rxfValid = false :=
  ⟨by decide, latched_inv, by decide, by decide, by decide, by decide⟩

theorem witness_CsrrdReadsTheStatusMap :
    opwCode 0x70000000 = 0x7 ∧ State.reset.cfg.wf = true ∧ (5 : Byte).toNat ≤ 5 ∧
      (8 ≤ (8 : Byte).toNat ∧ (0xA : Byte).toNat ≤ 0xA) ∧
      (0x10 ≤ (0x12 : Byte).toNat ∧ (0x12 : Byte).toNat < 0x10 + State.reset.cfg.nCh) ∧
      State.reset.cfg.ramps[2]? = some ⟨10, 10⟩ ∧
      (6 : Byte).toNat = 6 ∧ (7 : Byte).toNat = 7 ∧ 0xB ≤ (0xB : Byte).toNat ∧ (0xF : Byte).toNat ≤ 0xF ∧
      0x10 + State.reset.cfg.nCh ≤ (0x13 : Byte).toNat := by decide

theorem witness_NamedDigestsDetectOneChangedByte :
    Config.reference.digestSel = .crc8 ∧ xorConfig.digestSel = .xor8 ∧
      { Config.reference with digestSel := .sum8 }.digestSel = .sum8 ∧ (0x00 : Byte) ≠ 0x80 := by decide

theorem witness_FrameLayout :
    (List.replicate 16 (0x02 : Byte)).length ≤ Config.reference.nMax ∧ Config.reference.nMax ≤ 250 := by decide

theorem witness_EncodedFramesDecodeBack :
    Config.reference.wf = true ∧ encodablePair Config.reference 0x02 (List.replicate 16 0x03) ∧
      encodablePair Config.reference 0x03 [] := by decide

theorem witness_ValidFramesAreEncodings :
    validFrame Config.reference [0x02, 0x02, 0x01, 0xAA, 0x9C, 0x03] := by decide +kernel

theorem witness_TelemetryPayloadLayout : (List.replicate 8 (0 : Byte)).length ≠ 7 ∧ ([] : List Byte).length ≠ 7 := by
  decide

theorem reset_inv : (presented Config.reference []).Inv := inv_of_check (by decide)

theorem witness_TxencEncodesTheStagedPayload :
    opwCode 0x40000000 = 0x4 ∧ (presented Config.reference []).Inv ∧ (16 : Byte).toNat ≤ Config.reference.nMax ∧
      Config.reference.nMax < (17 : Byte).toNat :=
  ⟨by decide, reset_inv, by decide, by decide⟩

theorem witness_SendEncodesThePayload :
    (presented Config.reference (traceOf (sendLines 0x41 (List.replicate 16 0xFF)))).Inv ∧
      (List.replicate 16 (0xFF : Byte)).length ≤ Config.reference.nMax :=
  ⟨inv_of_check (by decide), by decide⟩

theorem witness_RxfeedInAwaitingStart :
    State.reset.blk.rxState = .awaitingStart ∧ (0x03 : Byte) ≠ State.reset.cfg.start ∧ State.reset.blk.rxbuf.wf = true := by
  decide

/-- A partial frame at the last tick before the timeout. -/
def atLimit : State := at_ (feeding [0x02, 0x41, 0x11] 0) 100

/-- A partial frame at the first tick of the timeout. -/
def pastLimit : State := at_ (feeding [0x02, 0x41, 0x11] 0) 101

theorem witness_RxfeedAfterTimeout :
    pastLimit.blk.rxState = .inFrame ∧ pastLimit.cfg.tTimeout < (pastLimit.now - pastLimit.blk.rxLast).toNat ∧
      (0x03 : Byte) ≠ pastLimit.cfg.start ∧ pastLimit.blk.rxbuf.wf = true := by decide

/-- V-P14 after 21 bytes. -/
def full : State := at_ (feeding ([0x02, 0x41, 0x11] ++ List.replicate 18 0xEE) 0) 100

theorem witness_RxfeedOverflow :
    full.blk.rxState = .inFrame ∧ (full.now - full.blk.rxLast).toNat ≤ full.cfg.tTimeout ∧
      full.blk.rxCount.toNat = full.cfg.nMax + 5 := by decide

/-- Below and at `rx_count = 4`, and at the last free element of `rxbuf`. -/
theorem witness_RxfeedAccumulates :
    (atLimit.Inv ∧ atLimit.blk.rxState = .inFrame ∧ (atLimit.now - atLimit.blk.rxLast).toNat ≤ atLimit.cfg.tTimeout ∧
      atLimit.blk.rxCount.toNat < atLimit.cfg.nMax + 5 ∧ ¬ 4 ≤ atLimit.blk.rxCount.toNat) ∧
    ∃ s : State, s.Inv ∧ s.blk.rxState = .inFrame ∧ (s.now - s.blk.rxLast).toNat ≤ s.cfg.tTimeout ∧
      s.blk.rxCount.toNat + 1 = s.cfg.nMax + 5 ∧ s.blk.rxCount.toNat + 1 ≠ (s.blk.rxbuf.read 2).toNat + 5 :=
  ⟨⟨inv_of_check (by decide), by decide, by decide, by decide, by decide⟩,
    at_ (feeding ([0x02, 0x41, 0x11] ++ List.replicate 17 0xEE) 0) 100,
    inv_of_check (by decide), by decide, by decide, by decide, by decide⟩

/-- A frame whose next byte is its last: the shortest, CHECKSUM right or wrong. -/
def ending (x : Byte) : State := at_ (feeding [0x02, 0x50, 0x00, x] 0) 100

/-- The longest frame, all bytes but its last; its CHECKSUM is wrong. -/
def endingLong : State := at_ (feeding ([0x02, 0x41, 0x10] ++ List.replicate 17 0x00) 0) 100

theorem ending_inv_right : (ending 0x0C).Inv := inv_of_check (by decide)

theorem ending_inv_wrong : (ending 0x0D).Inv := inv_of_check (by decide)

theorem witness_RxfeedBadEnd :
    ((ending 0x0C).Inv ∧ (ending 0x0C).blk.rxState = .inFrame ∧
      ((ending 0x0C).now - (ending 0x0C).blk.rxLast).toNat ≤ (ending 0x0C).cfg.tTimeout ∧
      (ending 0x0C).blk.rxCount.toNat < (ending 0x0C).cfg.nMax + 5 ∧ 4 ≤ (ending 0x0C).blk.rxCount.toNat ∧
      (ending 0x0C).blk.rxCount.toNat + 1 = ((ending 0x0C).blk.rxbuf.read 2).toNat + 5 ∧
      (0x02 : Byte) ≠ (ending 0x0C).cfg.endByte) ∧
    endingLong.Inv ∧ endingLong.blk.rxCount.toNat + 1 = (endingLong.blk.rxbuf.read 2).toNat + 5 ∧
      endingLong.blk.rxCount.toNat + 1 = endingLong.cfg.nMax + 5 :=
  ⟨⟨ending_inv_right, by decide, by decide, by decide, by decide, by decide, by decide⟩,
    inv_of_check (by decide), by decide, by decide⟩

theorem witness_RxfeedBadChecksum :
    (ending 0x0D).Inv ∧ (ending 0x0D).blk.rxState = .inFrame ∧
      ((ending 0x0D).now - (ending 0x0D).blk.rxLast).toNat ≤ (ending 0x0D).cfg.tTimeout ∧
      (ending 0x0D).blk.rxCount.toNat < (ending 0x0D).cfg.nMax + 5 ∧ 4 ≤ (ending 0x0D).blk.rxCount.toNat ∧
      (ending 0x0D).blk.rxCount.toNat + 1 = ((ending 0x0D).blk.rxbuf.read 2).toNat + 5 ∧
      digest (ending 0x0D).cfg ((ending 0x0D).blk.rxbuf.readRange 1 ((ending 0x0D).blk.rxCount.toNat - 2)) ≠
        (ending 0x0D).blk.rxbuf.read ((ending 0x0D).blk.rxCount.toNat - 1) :=
  ⟨ending_inv_wrong, by decide, by decide, by decide, by decide, by decide, by decide +kernel⟩

theorem witness_RxfeedCompletesAFrame :
    (ending 0x0C).Inv ∧ (ending 0x0C).blk.rxState = .inFrame ∧
      ((ending 0x0C).now - (ending 0x0C).blk.rxLast).toNat ≤ (ending 0x0C).cfg.tTimeout ∧
      (ending 0x0C).blk.rxCount.toNat < (ending 0x0C).cfg.nMax + 5 ∧ 4 ≤ (ending 0x0C).blk.rxCount.toNat ∧
      (ending 0x0C).blk.rxCount.toNat + 1 = ((ending 0x0C).blk.rxbuf.read 2).toNat + 5 ∧
      digest (ending 0x0C).cfg ((ending 0x0C).blk.rxbuf.readRange 1 ((ending 0x0C).blk.rxCount.toNat - 2)) =
        (ending 0x0C).blk.rxbuf.read ((ending 0x0C).blk.rxCount.toNat - 1) :=
  ⟨ending_inv_right, by decide, by decide, by decide, by decide, by decide, by decide +kernel⟩

theorem witness_RxpollTestsTheTimeout :
    opwCode 0x20000000 = 0x2 ∧ pastLimit.blk.rxState = .inFrame ∧
      pastLimit.cfg.tTimeout < (pastLimit.now - pastLimit.blk.rxLast).toNat ∧
      (atLimit.now - atLimit.blk.rxLast).toNat ≤ atLimit.cfg.tTimeout ∧ State.reset.blk.rxState = .awaitingStart := by decide

theorem witness_RxfeedAcceptsEveryByte : opwCode 0x10000000 = 0x1 ∧ atLimit.Inv :=
  ⟨by decide, inv_of_check (by decide)⟩

/-- V-P1, one byte a tick. -/
def frameBytes : List (Byte × Time) := ticked [0x02, 0x50, 0x00, 0x0C, 0x03]

theorem witness_CompleteMeansAValidFrame :
    (presented Config.reference (rxEvents frameBytes)).Inv ∧
      (presented Config.reference (rxEvents frameBytes)).blk.rxState = .awaitingStart ∧ frameBytes ≠ [] ∧
      ∃ t, Host.Core.run core frameBytes.length (presented Config.reference (rxEvents frameBytes)) = .next t ∧
        t.results.getLast? = some ⟨.complete, .none, 0x50⟩ :=
  ⟨inv_of_check (by decide), by decide, by decide, exists_next (by decide +kernel)⟩

/-- Gaps of exactly `T_TIMEOUT`, and an empty and a longest payload. -/
theorem witness_FramesAreReceived :
    (let bs : List (Byte × Time) := [(0x02, 0), (0x50, 100), (0x00, 200), (0x0C, 300), (0x03, 400)]
     (presented Config.reference (rxEvents bs)).Inv ∧
      (presented Config.reference (rxEvents bs)).blk.rxState = .awaitingStart ∧
      bs.map Prod.fst = encodeFrame Config.reference 0x50 [] ∧ paced Config.reference bs = true) ∧
    (let bs := ticked (encodeFrame Config.reference 0x41 (List.replicate 16 0x02))
     (presented Config.reference (rxEvents bs)).Inv ∧
      (List.replicate 16 (0x02 : Byte)).length ≤ Config.reference.nMax ∧
      bs.map Prod.fst = encodeFrame Config.reference 0x41 (List.replicate 16 0x02) ∧
      paced Config.reference bs = true) :=
  ⟨⟨inv_of_check (by decide), by decide, by decide +kernel, by decide⟩,
    inv_of_check (by decide), by decide, by decide +kernel, by decide +kernel⟩

/-- InFrame at tick 0, the first byte of the frame at the first tick of the timeout. -/
theorem witness_FramesAreReceived_timeout :
    let bs : List (Byte × Time) := [(0x50, 201), (0x00, 301), (0x0C, 302), (0x03, 303)]
    let s : State := { at_ (feeding [0x02, 0x41] 0) 0 with inputs := rxEvents ((0x02, 101) :: bs) }
    s.Inv ∧ s.blk.rxState = .inFrame ∧ s.cfg.tTimeout < ((101 : Time) - s.blk.rxLast).toNat ∧
      ([] : List Byte).length ≤ s.cfg.nMax ∧
      (((0x02 : Byte), (101 : Time)) :: bs).map Prod.fst = encodeFrame s.cfg 0x50 [] ∧
      paced s.cfg ((0x02, 101) :: bs) = true ∧ s.inputs = rxEvents ((0x02, 101) :: bs) :=
  ⟨inv_of_check (by decide), by decide, by decide, by decide, by decide +kernel, by decide, rfl⟩

/-- A frame of the `XOR8` instance. -/
def xorFrame : List Byte := [0x02, 0x41, 0x01, 0xFF, 0xBF, 0x03]

/-- That frame with byte `k` changed to 0x11, and what follows it. -/
def damaged (k : Nat) (more : List Byte) : List (Byte × Time) := ticked (xorFrame.set k 0x11 ++ more)

/-- COMMAND, first PAYLOAD byte, END. -/
theorem witness_OneChangedByteIsDetected :
    xorConfig.Legal ∧ validFrame xorConfig xorFrame ∧
      ∀ k ∈ [1, 3, 5], (presented xorConfig (rxEvents (damaged k []))).Inv ∧
        (presented xorConfig (rxEvents (damaged k []))).blk.rxState = .awaitingStart ∧
        (k = 1 ∨ 3 ≤ k) ∧ k < xorFrame.length ∧ xorFrame[k]? ≠ some 0x11 ∧
        (damaged k []).map Prod.fst = xorFrame.set k 0x11 ∧ paced xorConfig (damaged k []) = true := by
  refine ⟨xorConfig_legal, by decide, fun k hk => ⟨inv_of_check rfl, rfl, ?_⟩⟩
  revert k
  decide +kernel

/-- COMMAND, first PAYLOAD byte, CHECKSUM. -/
theorem witness_BadFrameDoesNotTaintTheNext :
    xorConfig.Legal ∧ validFrame xorConfig xorFrame ∧ validFrame xorConfig [0x02, 0x50, 0x00, 0x50, 0x03] ∧
      ∀ k ∈ [1, 3, 4], (presented xorConfig (rxEvents (damaged k [0x02, 0x50, 0x00, 0x50, 0x03]))).Inv ∧
        (k = 1 ∨ 3 ≤ k) ∧ k + 1 < xorFrame.length ∧ xorFrame[k]? ≠ some 0x11 ∧
        (damaged k [0x02, 0x50, 0x00, 0x50, 0x03]).map Prod.fst =
          xorFrame.set k 0x11 ++ [0x02, 0x50, 0x00, 0x50, 0x03] ∧
        paced xorConfig (damaged k [0x02, 0x50, 0x00, 0x50, 0x03]) = true := by
  refine ⟨xorConfig_legal, by decide, by decide, fun k hk => ⟨inv_of_check rfl, ?_⟩⟩
  revert k
  decide +kernel

theorem witness_GarbageWithoutStartIsDiscarded :
    (presented Config.reference (rxEvents [(0x00, 5), (0x03, 2000), (0xFF, 7)])).blk.rxState = .awaitingStart ∧
      ∀ p ∈ [((0x00 : Byte), (5 : Time)), (0x03, 2000), (0xFF, 7)], p.1 ≠ Config.reference.start :=
  ⟨rfl, by simp [Config.reference]⟩

theorem witness_PollingDoesNotChangeDecoding :
    pastLimit.blk.rxState = .inFrame ∧ pastLimit.cfg.tTimeout < ((101 : Time) - pastLimit.blk.rxLast).toNat ∧
      ((101 : Time) - pastLimit.blk.rxLast).toNat + ((0xFFFFFFFF : Time) - 101).toNat < 2 ^ 32 ∧
      ∃ u v, exec .rxpoll { pastLimit with now := 101 } = .next u ∧
        exec (.rxfeed 0x02) { u with now := 0xFFFFFFFF } = .next v :=
  ⟨by decide, by decide, by decide, _, _, rfl, rfl⟩

/-- The last channel, and the first that does not exist. -/
theorem witness_RlsetStoresTheClampedTarget :
    opwCode 0x80000000 = 0x8 ∧ State.reset.blk.channels.length = State.reset.cfg.nCh ∧
      (2 : BitVec 4).toNat < State.reset.cfg.nCh ∧ State.reset.cfg.nCh ≤ (3 : BitVec 4).toNat := by decide

theorem witness_RladvMovesEveryChannel :
    opwCode 0x90000000 = 0x9 ∧ ramping.channels.length = Config.reference.nCh ∧
      ramping.channels[2]? = some ⟨50, 50⟩ ∧ Config.reference.ramps[2]? = some ⟨10, 10⟩ := by decide

/-- One channel per clause: up, down, at its target. -/
theorem witness_RladvNeverOvershoots :
    (at_ ramping 0).Inv ∧ ∃ t, exec .rladv (at_ ramping 0) = .next t ∧
      (ramping.channels[1]? = some ⟨12, 10⟩ ∧ t.blk.channels[1]? = some ⟨12, 12⟩ ∧ Config.reference.ramps[1]? = some ⟨5, 5⟩) ∧
      (ramping.channels[0]? = some ⟨0, 3⟩ ∧ t.blk.channels[0]? = some ⟨0, 2⟩ ∧ Config.reference.ramps[0]? = some ⟨2, 1⟩) ∧
      (ramping.channels[2]? = some ⟨50, 50⟩ ∧ t.blk.channels[2]? = some ⟨50, 50⟩ ∧
        Config.reference.ramps[2]? = some ⟨10, 10⟩) :=
  ⟨inv_of_check (by decide), _, rfl, by decide, by decide, by decide⟩

theorem witness_RampArrivesAfterCeilCycles :
    let s : State := { at_ ramping 0 with inputs := List.replicate 3 (.operation (encode .rladv) 0) }
    s.Inv ∧ s.blk.channels[0]? = some ⟨0, 3⟩ ∧ s.cfg.ramps[0]? = some ⟨2, 1⟩ ∧
      s.inputs = List.replicate 3 (.operation (encode .rladv) 0) :=
  ⟨inv_of_check (by decide), rfl, rfl, rfl⟩

theorem witness_RlrdReadsTheChannel :
    opwCode 0xA0000000 = 0xA ∧ (2 : BitVec 4).toNat < Config.reference.nCh ∧
      ramping.channels[(2 : BitVec 4).toNat]? = some ⟨50, 50⟩ ∧ Config.reference.nCh ≤ (3 : BitVec 4).toNat := by decide

theorem witness_EstopForcesEveryChannelSafe : opwCode 0xB0000001 = 0xB := by decide

theorem witness_EstopclrClearsTheFlagOnly : opwCode 0xC0000000 = 0xC := by decide

/-- The reference instance under emergency stop, with these events to come. -/
def stopped (es : List PortEvent) : State := { at_ { idleBlock with estop := true } 0 with inputs := es }

theorem witness_EmergencyStopIsSticky :
    ∀ e ∈ [PortEvent.resetPin, .operation 0xC0000000 0, .operation 0xF0000000 0],
      (stopped [e]).blk.estop = true ∧ ∃ t, step (stopped [e]) = .next t ∧ t.blk.estop = false := by
  intro e he
  simp only [List.mem_cons, List.not_mem_nil, or_false] at he
  obtain rfl | rfl | rfl := he <;> exact ⟨rfl, _, rfl, rfl⟩

theorem witness_StoppedChannelsStaySafe :
    (stopped []).Inv ∧ (stopped []).blk.estop = true ∧
      ∃ t, exec (.rlset 0 50) (stopped []) = .next t ∧ (⟨0, 0⟩ : Channel) ∈ t.blk.channels :=
  ⟨inv_of_check (by decide), rfl, _, rfl, by decide⟩

theorem witness_ActualMovesOnlyAtItsRate :
    (at_ ramping 0).Inv ∧ ramping.channels[0]? = some ⟨0, 3⟩ ∧ Config.reference.ramps[0]? = some ⟨2, 1⟩ ∧
      (∃ t, exec .rladv (at_ ramping 0) = .next t ∧ t.blk.channels[0]? = some ⟨0, 2⟩ ∧ (2 : Byte) ≠ 3) ∧
      ∃ t, exec .estop (at_ ramping 0) = .next t ∧ t.blk.channels[0]? = some ⟨0, 0⟩ ∧ (0 : Byte) ≠ 3 :=
  ⟨inv_of_check (by decide), rfl, rfl, ⟨_, rfl, rfl, by decide⟩, _, rfl, rfl, by decide⟩

theorem witness_LatchChangesOnlyOnComplete :
    ∃ t, exec .sreset latched = .next t ∧
      (t.blk.rxfValid, t.blk.rxfCmd, t.blk.rxfLen, t.blk.rxfPayload) ≠
        (latched.blk.rxfValid, latched.blk.rxfCmd, latched.blk.rxfLen, latched.blk.rxfPayload) :=
  ⟨_, rfl, by decide⟩

/-- Both counters at their ends: a discard of each kind, and a counter that is full. -/
theorem witness_CountersCountDiscards :
    (∃ t, exec .rxpoll pastLimit = .next t ∧ t.results = pastLimit.results ++ [⟨.invalid, .timeout, 0⟩]) ∧
    (∃ t, exec (.rxfeed 0x03) (ending 0x0D) = .next t ∧
      t.results = (ending 0x0D).results ++ [⟨.invalid, .checksum, 0⟩]) ∧
    ∃ t, exec .rxpoll (at_ { feeding [0x02] 0 with cntFraming := 0xFFFF } 101) = .next t ∧
      t.results = [] ++ [⟨.invalid, .timeout, 0⟩] :=
  ⟨⟨_, rfl, rfl⟩, exists_next (by decide +kernel), _, rfl, rfl⟩

/-- One operation for each status. -/
theorem witness_ResultsAreWellFormed :
    (∃ t, exec .nop State.reset = .next t ∧ t.results = State.reset.results ++ [⟨.done, .none, 0⟩]) ∧
    (∃ t, exec (.rxfeed 0x03) (ending 0x0C) = .next t ∧
      t.results = (ending 0x0C).results ++ [⟨.complete, .none, 0x50⟩]) ∧
    (∃ t, exec .rxpoll pastLimit = .next t ∧ t.results = pastLimit.results ++ [⟨.invalid, .timeout, 0⟩]) ∧
    ∃ t, exec .reservedD State.reset = .next t ∧ t.results = State.reset.results ++ [⟨.refused, .illegalOp, 0⟩] :=
  ⟨⟨_, rfl, rfl⟩, exists_next (by decide +kernel), ⟨_, rfl, rfl⟩, _, rfl, rfl⟩

theorem witness_ReadsHaveNoSideEffect :
    (∃ t, exec (.txfrd 4) encoded = .next t ∧ t.results = encoded.results ++ [⟨.done, .none, 3⟩]) ∧
      ∃ t, exec (.rlrd 2) (at_ ramping 0) = .next t ∧ t.results = [] ++ [⟨.done, .none, 0x3232⟩] :=
  ⟨⟨_, rfl, rfl⟩, _, rfl, rfl⟩

/-- One changed field for each clause. -/
theorem witness_WritersOfEachField :
    (∃ t, exec .rxpoll pastLimit = .next t ∧ t.blk.rxState ≠ pastLimit.blk.rxState) ∧
    (∃ t, exec (.rxfeed 0xAA) atLimit = .next t ∧ t.blk.rxbuf ≠ atLimit.blk.rxbuf) ∧
    (∃ t, exec (.txpwr 15 0xAB) State.reset = .next t ∧ t.blk.txp ≠ State.reset.blk.txp) ∧
    (∃ t, exec (.txenc 0 0x41) State.reset = .next t ∧ t.blk.txfLen ≠ State.reset.blk.txfLen) ∧
    (∃ t, exec (.rlset 2 100) State.reset = .next t ∧
      t.blk.channels.map Channel.target ≠ State.reset.blk.channels.map Channel.target ∧
      State.reset.blk.channels.length = State.reset.cfg.nCh) ∧
    (∃ t, exec .rladv (at_ ramping 0) = .next t ∧
      t.blk.channels.map Channel.actual ≠ ramping.channels.map Channel.actual) ∧
    ∃ t, exec .estop State.reset = .next t ∧ t.blk.estop ≠ State.reset.blk.estop :=
  ⟨⟨_, rfl, by decide⟩, ⟨_, rfl, by decide⟩, ⟨_, rfl, by decide⟩, ⟨_, rfl, by decide⟩, ⟨_, rfl, by decide, by decide⟩,
    ⟨_, rfl, by decide⟩, _, rfl, by decide⟩

theorem witness_OnlyTheParserLooksAtNow :
    Instr.rladv ≠ .rxpoll ∧ (∀ b, Instr.rladv ≠ .rxfeed b) ∧ ∃ t, exec .rladv (at_ ramping 0) = .next t :=
  ⟨by decide, fun _ h => (nomatch h), _, rfl⟩

/-- Two states that differ in a stale byte of each buffer. -/
theorem witness_StaleBytesAreUnobservable :
    let k := { latching 0x41 [0xAA] with rxbuf := [(7, 1)], rxfPayload := [(0, 0xAA), (1, 5)], txf := [(9, 9)] }
    let k' := latching 0x41 [0xAA]
    (at_ k 0).Inv ∧ (at_ k' 0).Inv ∧ { at_ k 0 with blk := (at_ k' 0).blk } = at_ k' 0 ∧
      { k with rxbuf := k'.rxbuf, rxfPayload := k'.rxfPayload, txf := k'.txf } = k' ∧
      (∀ a < k.rxCount.toNat, k.rxbuf.read a = k'.rxbuf.read a) ∧
      (∀ a < k.rxfLen.toNat, k.rxfPayload.read a = k'.rxfPayload.read a) ∧
      (∀ a < k.txfLen.toNat, k.txf.read a = k'.txf.read a) ∧ ∃ t, exec (.rxfrd 0) (at_ k 0) = .next t :=
  ⟨inv_of_check (by decide), inv_of_check (by decide), rfl, rfl, by decide, by decide, by decide, _, rfl⟩

/-- A host whose derived value keeps the worked example. -/
def exampleHost : DerivedValues := fun q => (if q.quantity = 0x447A0000 then 0x3F800000 else 0, 0x64)

theorem witness_HostRepliesOncePerEvent :
    Config.reference.wf = true ∧ keepsWorkedExample exampleHost ∧
      (⟨0x447A0000, 2, 2, 2⟩ : UpdateRequest).quantity = 0x447A0000 ∧
      ((0x02 : Byte) ≠ Config.reference.host.cmdPing ∧ (0x02 : Byte) ≠ Config.reference.host.cmdUpdate) ∧
      ([0x00] : List Byte) ≠ [] ∧ (List.replicate 8 (0x00 : Byte)).length ≠ 7 :=
  ⟨by decide, fun _ h => if_pos h, rfl, by decide, by decide, by decide⟩

end Sys2Proof.Tests
end

section
/-! PROOFS. The words of the status map as numbers, and what reset leaves in every entry (10_state.md R22, R27). -/

namespace Sys2Proof

/-- The ranges of R6 that let `N_MAX`, `MAX_FRAME`, `T_TIMEOUT` and `N_CH` be read back from their registers. -/
theorem Config.ranges_of_wf {c : Config} (h : c.wf = true) :
    (8 ≤ c.nMax ∧ c.nMax ≤ 250) ∧ (1 ≤ c.tTimeout ∧ c.tTimeout < 2 ^ 31) ∧ 1 ≤ c.nCh ∧ c.nCh ≤ 16 := by
  simp only [Config.wf, Config.nMaxInRange, Config.timeoutInRange, Config.nChInRange, Bool.and_eq_true,
    decide_eq_true_eq] at h
  tauto

/-- R6: every ramp rate of well-formed parameters is a percentage of at least 1. -/
theorem Config.ramp_bounds_of_wf {c : Config} (h : c.wf = true) {r : Ramp} (hr : r ∈ c.ramps) :
    (1 ≤ r.up ∧ r.up ≤ 100) ∧ 1 ≤ r.down ∧ r.down ≤ 100 := by
  have hall : c.rampsInRange = true := by
    simp only [Config.wf, Bool.and_eq_true] at h
    tauto
  have hrates := List.all_eq_true.1 hall r hr
  simp only [Bool.and_eq_true, decide_eq_true_eq] at hrates
  tauto

namespace Machine

/-! Words put together from bytes. -/

theorem toNat_append_eq_add {m n : Nat} (hi : BitVec m) (lo : BitVec n) :
    (hi ++ lo).toNat = lo.toNat + 2 ^ n * hi.toNat := by
  rw [BitVec.toNat_append, Nat.shiftLeft_eq, Nat.mul_comm, ← Nat.two_pow_add_eq_or_of_lt lo.isLt, Nat.add_comm]

theorem packBytes_toNat (lo hi : Byte) : (packBytes lo hi).toNat = lo.toNat + 256 * hi.toNat := by
  simp only [packBytes, toNat_append_eq_add, BitVec.ofNat_eq_ofNat, BitVec.toNat_zero]
  omega

/-! The parameter entries of the status map, in every block state. -/

@[simp] theorem Block.statusReg_sentinels (c : Config) (k : Block) :
    k.statusReg c 0x08 = some (packBytes c.start c.endByte) := rfl

/-- `CFG_LIMITS`: `N_MAX`, `MAX_FRAME` and `N_CH`, one byte each (R22). -/
def limitsWord (c : Config) : Word :=
  (0 : Byte) ++ BitVec.ofNat 8 c.nCh ++ BitVec.ofNat 8 c.maxFrame ++ BitVec.ofNat 8 c.nMax

@[simp] theorem Block.statusReg_limits (c : Config) (k : Block) : k.statusReg c 0x09 = some (limitsWord c) := rfl

@[simp] theorem Block.statusReg_timeout (c : Config) (k : Block) :
    k.statusReg c 0x0A = some (BitVec.ofNat 32 c.tTimeout) := rfl

/-- From 0x10 on the map holds the ramp rates, one entry per channel and nothing else (R22). -/
@[simp] theorem Block.statusReg_ramp (c : Config) (k : Block) (ch : Nat) :
    k.statusReg c (0x10 + ch) = rampCfg c ch := by
  have hle : 0x10 ≤ 0x10 + ch := Nat.le_add_right ..
  unfold Block.statusReg
  split
  case h_10 => rw [if_pos hle, Nat.add_sub_cancel_left]
  all_goals omega

/-! Their values for well-formed parameters: R6 keeps each parameter within its field. -/

theorem limitsWord_toNat {c : Config} (h : c.wf = true) :
    (limitsWord c).toNat = c.nMax + 256 * (c.nMax + 5) + 65536 * c.nCh := by
  obtain ⟨hnMax, -, hnCh⟩ := Config.ranges_of_wf h
  simp only [limitsWord, toNat_append_eq_add, BitVec.ofNat_eq_ofNat, BitVec.toNat_ofNat, Config.maxFrame,
    Config.overhead]
  omega

theorem timeoutWord_toNat {c : Config} (h : c.wf = true) : (BitVec.ofNat 32 c.tTimeout).toNat = c.tTimeout := by
  obtain ⟨-, htimeout, -⟩ := Config.ranges_of_wf h
  rw [BitVec.toNat_ofNat, Nat.mod_eq_of_lt (by omega)]

theorem rampCfg_toNat {c : Config} (h : c.wf = true) {ch : Nat} {r : Ramp} (hr : c.ramps[ch]? = some r) :
    ∃ w : Word, rampCfg c ch = some w ∧ w.toNat = r.up + 256 * r.down := by
  obtain ⟨hup, hdown⟩ := Config.ramp_bounds_of_wf h (List.mem_of_getElem? hr)
  refine ⟨packBytes (BitVec.ofNat 8 r.up) (BitVec.ofNat 8 r.down), by rw [rampCfg, hr, Option.map_some], ?_⟩
  rw [packBytes_toNat, BitVec.toNat_ofNat, BitVec.toNat_ofNat, Nat.mod_eq_of_lt (by omega), Nat.mod_eq_of_lt (by omega)]

/-! What reset leaves. -/

theorem exec_sreset (s : State) : exec .sreset s = .next (s.after (Block.reset s.cfg) (Res.done 0)) := by
  rw [exec_eq_perform]
  rfl

/-- R172, R200: `SRESET` and the reset pin leave one and the same block. -/
theorem blk_eq_reset_of_sreset_or_pin {s t : State}
    (h : exec .sreset s = .next t ∨ ∃ rest, s.inputs = .resetPin :: rest ∧ step s = .next t) :
    t.blk = Block.reset s.cfg := by
  rcases h with hsreset | ⟨rest, hpin, hstep⟩
  · rw [exec_sreset] at hsreset
    cases hsreset
    exact State.after_blk ..
  · rw [step_resetPin hpin] at hstep
    cases hstep
    exact State.resetBlock_blk _

theorem Block.reset_statusWord (c : Config) : (Block.reset c).statusWord = 0 := by
  unfold Block.statusWord
  simp only [Block.reset_rxCount, Block.reset_estop, Block.reset_rxfValid, Block.reset_rxState]
  decide

/-- R22, R27: the six status registers, each a view of fields that reset clears. -/
theorem Block.reset_statusReg (c : Config) {i : Nat} (hi : i ≤ 5) : (Block.reset c).statusReg c i = some 0 := by
  have hlatch : packBytes 0 0 = 0 := by decide
  match i, hi with
  | 0, _ => exact congrArg some (Block.reset_statusWord c)
  | 3, _ => exact congrArg some hlatch
  | 1, _ | 2, _ | 4, _ | 5, _ => rfl

theorem Block.mem_reset_channels {c : Config} {x : Channel} (hx : x ∈ (Block.reset c).channels) :
    x.target = 0 ∧ x.actual = 0 := by
  rw [Block.reset_channels] at hx
  rw [List.eq_of_mem_replicate hx]
  exact ⟨rfl, rfl⟩

/-- Settles O12: both resets leave `Block.reset`, so each entry of the status map is read off it by one of the lemmas
above. -/
theorem resetValues : Obligations.ResetValues := by
  intro s t h
  rw [blk_eq_reset_of_sreset_or_pin h]
  refine ⟨rfl, rfl, rfl, rfl, rfl, rfl, rfl, rfl, rfl, rfl, fun _ => ⟨rfl, rfl, rfl, rfl⟩, List.length_replicate,
    fun _ => Block.mem_reset_channels, fun _ => Block.reset_statusReg s.cfg, fun hwf => ?_⟩
  refine ⟨_, _, _, Block.statusReg_sentinels .., Block.statusReg_limits .., Block.statusReg_timeout ..,
    packBytes_toNat .., limitsWord_toNat hwf, timeoutWord_toNat hwf, fun ch r hr => ?_⟩
  rw [Block.statusReg_ramp]
  exact rampCfg_toNat hwf hr

end Machine

end Sys2Proof
end

section
/-! PROOFS. The operation word: its fields, what the decoder reads from them, and the rows of the operation code table
(30_encoding.md R76 to R78). -/

namespace Sys2Proof

/-! A word is its four fields, and a mask acts on each of them. -/

theorem opwOf_fields (w : Word) : opwOf (opwCode w) (opwCh w) (opwIdx w) (opwVal w) = w := by
  unfold opwOf opwCode opwCh opwIdx opwVal
  rw [BitVec.extractLsb'_append_extractLsb'_eq_extractLsb' (show 28 = 24 + 4 from rfl),
    BitVec.extractLsb'_append_extractLsb'_eq_extractLsb' (show 24 = 16 + 8 from rfl),
    BitVec.extractLsb'_append_extractLsb'_eq_extractLsb' (show 16 = 0 + 16 from rfl)]
  exact BitVec.extractLsb'_eq_self

theorem opwOf_and (c c' ch ch' : BitVec 4) (i i' : Byte) (v v' : BitVec 16) :
    opwOf c ch i v &&& opwOf c' ch' i' v' = opwOf (c &&& c') (ch &&& ch') (i &&& i') (v &&& v') := by
  refine BitVec.and_append.trans ?_
  rw [BitVec.and_append, BitVec.and_append]
  rfl

/-- The mask that every row of R77 has keeps `code` alone. -/
theorem and_codeMask (w : Word) : w &&& 0xF0000000 = opwOf (opwCode w) 0 0 0 := by
  have hmask : (0xF0000000 : Word) = opwOf (BitVec.allOnes 4) 0 0 0 := by decide
  rw [← opwOf_fields w, hmask, opwOf_and, opwCode_opwOf, BitVec.and_allOnes]
  simp only [BitVec.ofNat_eq_ofNat, BitVec.and_zero]

/-- Words that agree under a mask agree in a field the mask covers. -/
theorem extractLsb'_eq_of_and_eq {w w' m : Word} {start len : Nat} (h : w' &&& m = w &&& m)
    (hm : m.extractLsb' start len = BitVec.allOnes len) : w'.extractLsb' start len = w.extractLsb' start len := by
  have hfield := congrArg (BitVec.extractLsb' start len) h
  rwa [BitVec.extractLsb'_and, BitVec.extractLsb'_and, hm, BitVec.and_allOnes, BitVec.and_allOnes] at hfield

/-! What the decoder reads. -/

/-- Each operand of the operation stands in the field of the word that R76 gives it. -/
def Instr.OperandsIn (w : Word) : Instr → Prop
  | .nop | .rxpoll | .rladv | .estop | .estopclr | .reservedD | .reservedE | .sreset => True
  | .rxfeed b => opwByte w = b
  | .txpwr i b | .txenc i b => opwIdx w = i ∧ opwByte w = b
  | .txfrd i | .rxfrd i | .csrrd i => opwIdx w = i
  | .rlset ch v => opwCh w = ch ∧ opwVal w = v
  | .rlrd ch => opwCh w = ch

/-- R77: the sixteen codes cover all words. -/
theorem exists_decode_eq_ok (w : Word) : ∃ i, decode w = .ok i := by
  have hcode : (opwCode w).toNat < 16 := (opwCode w).isLt
  unfold decode
  interval_cases (opwCode w).toNat <;> exact ⟨_, rfl⟩

/-- The decoder looks at `code` and at the fields of the operands, and at nothing else. -/
theorem decode_eq_ok_iff {w : Word} {i : Instr} :
    decode w = .ok i ↔ opwCode w = opwCode (encode i) ∧ i.OperandsIn w := by
  constructor
  · intro h
    unfold decode at h
    split at h
    case h_17 => cases h
    all_goals
      cases h
      refine ⟨BitVec.eq_of_toNat_eq ?_, by simp [Instr.OperandsIn]⟩
      rw [encode, opwCode_opwOf, ‹(opwCode w).toNat = _›]
      rfl
  · rintro ⟨hcode, hoperands⟩
    cases i
    all_goals
      rw [encode, opwCode_opwOf] at hcode
      simp_all [decode, Instr.OperandsIn]

theorem opwCode_usedBits (i : Instr) : opwCode i.usedBits = BitVec.allOnes 4 := by
  cases i <;> rw [Instr.usedBits] <;> decide

/-- The bits an operation uses hold all of its operands. -/
theorem Instr.OperandsIn.of_and_usedBits_eq {w w' : Word} {i : Instr} (hi : i.OperandsIn w)
    (h : w' &&& i.usedBits = w &&& i.usedBits) : i.OperandsIn w' := by
  cases i with
  | nop | rxpoll | rladv | estop | estopclr | reservedD | reservedE | sreset => trivial
  | rxfeed _ | txfrd _ | rxfrd _ | csrrd _ | rlrd _ =>
    rw [usedBits] at h
    exact (extractLsb'_eq_of_and_eq h (by decide)).trans hi
  | txpwr _ _ | txenc _ _ | rlset _ _ =>
    rw [usedBits] at h
    obtain ⟨hfst, hsnd⟩ := hi
    exact ⟨(extractLsb'_eq_of_and_eq h (by decide)).trans hfst, (extractLsb'_eq_of_and_eq h (by decide)).trans hsnd⟩

/-- Settles O3: words that agree on the bits an operation uses have one code and the same operands. -/
theorem unusedFieldsAreIgnored : Obligations.UnusedFieldsAreIgnored := by
  intro w w' i hdecode hagree
  obtain ⟨hcode, hoperands⟩ := decode_eq_ok_iff.1 hdecode
  have hsame : opwCode w' = opwCode w := extractLsb'_eq_of_and_eq hagree (opwCode_usedBits i)
  exact decode_eq_ok_iff.2 ⟨hsame.trans hcode, hoperands.of_and_usedBits_eq hagree⟩

/-! The rows of R77. -/

/-- The rows stand in the order of their codes. -/
theorem getElem?_opcodeRows_eq_some_iff {c : BitVec 4} {row : OpcodeRow} :
    opcodeRows[c.toNat]? = some row ↔ row ∈ opcodeRows ∧ opwCode row.pattern = c := by
  have hcodes : ∀ c : BitVec 4, ∀ row ∈ opcodeRows[c.toNat]?, opwCode row.pattern = c := by decide
  have hplaces : ∀ row ∈ opcodeRows, opcodeRows[(opwCode row.pattern).toNat]? = some row := by decide
  constructor
  · exact fun h => ⟨List.mem_of_getElem? h, hcodes c row h⟩
  · rintro ⟨hmem, rfl⟩
    exact hplaces row hmem

/-- A word fits a row when it has the row's code. -/
theorem and_mask_eq_pattern_iff {row : OpcodeRow} (hrow : row ∈ opcodeRows) (w : Word) :
    w &&& row.mask = row.pattern ↔ opwCode row.pattern = opwCode w := by
  have hmasks : ∀ r ∈ opcodeRows, r.mask = 0xF0000000 ∧ r.pattern = opwOf (opwCode r.pattern) 0 0 0 := by decide
  obtain ⟨hmask, hpattern⟩ := hmasks row hrow
  rw [hmask, and_codeMask]
  constructor
  · intro h
    rw [← h, opwCode_opwOf]
  · intro h
    rw [hpattern, h]

/-- The row at an operation's code has its mnemonic. -/
theorem codeField (i : Instr) : Laws.CodeField.Statement i := by
  cases i <;> exact Laws.CodeField.of_code rfl rfl

/-- Settles O2: the row at the place that the word's code numbers carries the decoded operation's mnemonic, and a row
fits the word only if it stands there. -/
theorem everyWordSelectsOneRow : Obligations.EveryWordSelectsOneRow := by
  intro w
  obtain ⟨i, hdecode⟩ := exists_decode_eq_ok w
  have hmnemonic : (opcodeRows.map OpcodeRow.mnemonic)[(opwCode w).toNat]? = some i.mnemonic := by
    rw [(decode_eq_ok_iff.1 hdecode).1]
    exact codeField i
  rw [List.getElem?_map, Option.map_eq_some_iff] at hmnemonic
  obtain ⟨row, hrow, hname⟩ := hmnemonic
  refine ⟨i, row, hdecode, List.mem_of_getElem? hrow, hname, fun row' hrow' => ?_⟩
  calc w &&& row'.mask = row'.pattern
      ↔ opwCode row'.pattern = opwCode w := and_mask_eq_pattern_iff hrow' w
    _ ↔ opcodeRows[(opwCode w).toNat]? = some row' := by
      rw [getElem?_opcodeRows_eq_some_iff, and_iff_right hrow']
    _ ↔ row' = row := by rw [hrow, Option.some_inj, eq_comm]

end Sys2Proof
end

section
/-! PROOFS. An encoded frame, byte by byte, and its decoding (30_encoding.md R60, R67, R68; 41_tx_encoder.md R100). -/

namespace Sys2Proof.Machine

/-- A frame as its three leading bytes, the payload and its two trailing bytes (R60). -/
theorem encodeFrame_eq_cons (c : Config) (command : Byte) (payload : List Byte) :
    encodeFrame c command payload =
      c.start :: command :: BitVec.ofNat 8 payload.length ::
        (payload ++ [digest c (command :: BitVec.ofNat 8 payload.length :: payload), c.endByte]) := rfl

@[simp] theorem length_encodeFrame (c : Config) (command : Byte) (payload : List Byte) :
    (encodeFrame c command payload).length = payload.length + 5 := by
  simp [encodeFrame_eq_cons]

theorem encodeFrame_getD_start (c : Config) (command : Byte) (payload : List Byte) :
    (encodeFrame c command payload).getD 0 0 = c.start := rfl

theorem encodeFrame_getD_command (c : Config) (command : Byte) (payload : List Byte) :
    (encodeFrame c command payload).getD 1 0 = command := rfl

theorem encodeFrame_getD_length (c : Config) (command : Byte) (payload : List Byte) :
    (encodeFrame c command payload).getD 2 0 = BitVec.ofNat 8 payload.length := rfl

theorem encodeFrame_getD_checksum (c : Config) (command : Byte) (payload : List Byte) :
    (encodeFrame c command payload).getD (payload.length + 3) 0 =
      digest c (command :: BitVec.ofNat 8 payload.length :: payload) := by
  simp [encodeFrame_eq_cons]

theorem encodeFrame_getD_end (c : Config) (command : Byte) (payload : List Byte) :
    (encodeFrame c command payload).getD (payload.length + 4) 0 = c.endByte := by
  simp [encodeFrame_eq_cons]

/-- What the digest covers: COMMAND, LENGTH and PAYLOAD (R65). -/
theorem encodeFrame_digested (c : Config) (command : Byte) (payload : List Byte) :
    ((encodeFrame c command payload).drop 1).take (payload.length + 2) =
      command :: BitVec.ofNat 8 payload.length :: payload := by
  simp [encodeFrame_eq_cons]

theorem encodeFrame_payload (c : Config) (command : Byte) (payload : List Byte) :
    ((encodeFrame c command payload).drop 3).take payload.length = payload := by
  simp [encodeFrame_eq_cons]

/-- R6: `N_MAX` is at most 250, so LENGTH holds the length of every payload that can be encoded. -/
theorem lengthByte_toNat {c : Config} (hwf : c.wf = true) {payload : List Byte} (h : payload.length ≤ c.nMax) :
    (BitVec.ofNat 8 payload.length).toNat = payload.length := by
  obtain ⟨hnMax, -, -⟩ := Config.ranges_of_wf hwf
  rw [BitVec.toNat_ofNat, Nat.mod_eq_of_lt (by omega)]

theorem validFrame_encodeFrame {c : Config} (hwf : c.wf = true) (command : Byte) {payload : List Byte}
    (h : payload.length ≤ c.nMax) : validFrame c (encodeFrame c command payload) := by
  have hlength := lengthByte_toNat hwf h
  unfold validFrame
  rw [length_encodeFrame, encodeFrame_getD_start, encodeFrame_getD_length, hlength]
  refine ⟨Nat.le_add_left .., rfl, h, rfl, encodeFrame_getD_end .., ?_⟩
  calc (encodeFrame c command payload).getD (payload.length + 3) 0
      = digest c (command :: BitVec.ofNat 8 payload.length :: payload) := encodeFrame_getD_checksum ..
    _ = digest c (((encodeFrame c command payload).drop 1).take (payload.length + 2)) := by
      rw [encodeFrame_digested]

theorem decodeFrame_encodeFrame {c : Config} (hwf : c.wf = true) (command : Byte) {payload : List Byte}
    (h : payload.length ≤ c.nMax) : decodeFrame (encodeFrame c command payload) = (command, payload) := by
  rw [decodeFrame, encodeFrame_getD_command, encodeFrame_getD_length, lengthByte_toNat hwf h, encodeFrame_payload]

/-- Settles O23: each clause of R67 is read off the frame byte by byte, and LENGTH loses nothing in 8 bits. -/
theorem encodedFramesDecodeBack : Obligations.EncodedFramesDecodeBack :=
  fun _ command _ hwf h => ⟨validFrame_encodeFrame hwf command h, decodeFrame_encodeFrame hwf command h⟩

end Sys2Proof.Machine
end

section
/-! PROOFS. The bytes of an encoded frame at their offsets, and what `TXENC` stores (41_tx_encoder.md R100, R101). -/

namespace Sys2Proof.Machine

/-- From offset 3 on a frame is its payload and the two trailing bytes (R60, R100). -/
theorem getElem?_encodeFrame_three_add (c : Config) (command : Byte) (payload : List Byte) (i : Nat) :
    (encodeFrame c command payload)[3 + i]? =
      (payload ++ [digest c (command :: BitVec.ofNat 8 payload.length :: payload), c.endByte])[i]? := by
  rw [encodeFrame_eq_cons, Nat.add_comm, List.getElem?_cons_succ, List.getElem?_cons_succ, List.getElem?_cons_succ]

/-- Settles O22: behind the three leading bytes an offset falls in the payload or in the two bytes after it, and 250 fits
LENGTH. -/
theorem frameLayout : Obligations.FrameLayout := by
  intro c command payload hpayload hnMax
  refine ⟨length_encodeFrame .., rfl, rfl, ⟨_, rfl, ?_, ?_⟩, fun i hi => ?_, ?_⟩
  · rw [BitVec.toNat_ofNat, Nat.mod_eq_of_lt (by omega)]
  · rw [getElem?_encodeFrame_three_add, List.getElem?_append_right le_rfl, Nat.sub_self]
    rfl
  · rw [getElem?_encodeFrame_three_add, List.getElem?_append_left hi]
  · rw [show 4 + payload.length = 3 + (payload.length + 1) by omega, getElem?_encodeFrame_three_add,
      List.getElem?_append_right (by omega), Nat.add_sub_cancel_left]
    rfl

/-! `TXENC`: the frame it stores, and its two outcomes. -/

@[simp] theorem Block.length_stagedFrame (c : Config) (len : Nat) (cmd : Byte) (k : Block) :
    (k.stagedFrame c len cmd).length = len + 5 := by
  rw [Block.stagedFrame, length_encodeFrame, Memory.length_readRange]

theorem exec_txenc_of_le {s : State} {len : Byte} (h : len.toNat ≤ s.cfg.nMax) (cmd : Byte) :
    exec (.txenc len cmd) s =
      .next (s.after (s.blk.storeFrame (s.blk.stagedFrame s.cfg len.toNat cmd))
        (Res.done (BitVec.ofNat 32 (len.toNat + 5)))) := by
  obtain ⟨hlt, -⟩ | ⟨-, hstored⟩ := Block.encodeStaged_cases s.cfg len.toNat cmd s.blk
  · omega
  · rw [exec_eq_perform, Block.perform, hstored, State.complete]

theorem exec_txenc_of_lt {s : State} {len : Byte} (h : s.cfg.nMax < len.toNat) (cmd : Byte) :
    exec (.txenc len cmd) s = .next (s.after s.blk (Res.refused .badLength)) := by
  obtain ⟨-, hrefused⟩ | ⟨hle, -⟩ := Block.encodeStaged_cases s.cfg len.toNat cmd s.blk
  · rw [exec_eq_perform, Block.perform, hrefused, State.complete]
  · omega

/-- Settles O26: the frame has `len + 5` bytes, so reading that many back gives it whole and the addresses from `len + 5`
on lie outside the run of writes; R6 keeps `len + 5` within `txf_len`. -/
theorem txencEncodesTheStagedPayload : Obligations.TxencEncodesTheStagedPayload := by
  refine ⟨fun w hcode => ?_, fun s len cmd hinv hlen => ?_, fun s len cmd hlen => exec_txenc_of_lt hlen cmd⟩
  · refine decode_eq_ok_iff.2 ⟨?_, rfl, rfl⟩
    rw [hcode, encode, opwCode_opwOf]
  · have hframe := Block.length_stagedFrame s.cfg len.toNat cmd s.blk
    have hcanonical : s.blk.txf.wf = true := hinv.block.txf_fits.canonical
    obtain ⟨⟨-, hnMax⟩, -, -⟩ := Config.ranges_of_wf hinv.config
    refine ⟨_, _, exec_txenc_of_le hlen cmd, ?_, ?_, fun a ha => ?_⟩
    · rw [hframe, BitVec.toNat_ofNat, Nat.mod_eq_of_lt (by omega)]
    · calc (s.blk.txf.writeList 0 (s.blk.stagedFrame s.cfg len.toNat cmd)).readRange 0 (len.toNat + 5)
          = s.blk.stagedFrame s.cfg len.toNat cmd := by rw [← hframe, Memory.readRange_writeList hcanonical]
        _ = encodeFrame s.cfg cmd (s.blk.txp.readRange 0 len.toNat) := rfl
    · rw [Memory.read_writeList hcanonical, if_neg (by omega)]

end Sys2Proof.Machine
end

section
/-! PROOFS. One byte at the receive parser, and a poll (42_rx_parser.md R110 to R121). -/

namespace Sys2Proof.Machine

/-! Counters and time. -/

theorem satInc_eq_ofNat (n : BitVec 16) : satInc n = BitVec.ofNat 16 (min 0xFFFF (n.toNat + 1)) := by
  rw [← satInc_toNat, BitVec.ofNat_toNat, BitVec.setWidth_eq]

/-- A timeout discard, with the counter as a number (R117, R120). -/
theorem Block.discardFrame_timeout (k : Block) :
    k.discardFrame .timeout =
      { k with
        rxState := .awaitingStart, rxCount := 0,
        cntFraming := BitVec.ofNat 16 (min 0xFFFF (k.cntFraming.toNat + 1)) } := by
  rw [← satInc_eq_ofNat]
  rfl

theorem Block.timedOut_eq_false_iff {c : Config} {k : Block} {t : Time} :
    k.timedOut c t = false ↔ k.rxState = .awaitingStart ∨ (t - k.rxLast).toNat ≤ c.tTimeout := by
  rw [← Bool.not_eq_true, Block.timedOut_iff, not_and_or, not_lt]
  cases k.rxState <;> simp

/-! What `feed` answers, state by state (R122). -/

theorem Block.awaitByte_of_eq {c : Config} {b : Byte} (h : b = c.start) (k : Block) :
    k.awaitByte c b = k.openFrame b := if_pos h

theorem Block.awaitByte_of_ne {c : Config} {b : Byte} (h : b ≠ c.start) (k : Block) : k.awaitByte c b = k := if_neg h

/-- T1, T2: in AwaitingStart no byte is late. -/
theorem Block.feed_of_awaitingStart {c : Config} {k : Block} (h : k.rxState = .awaitingStart) (b : Byte) (t : Time) :
    k.feed c b t = .ok ((k.stamp t).awaitByte c b, Res.incomplete) := by
  have htime : k.timedOut c t = false := Block.timedOut_eq_false_iff.2 (.inl h)
  simp [Block.feed, htime, h]

/-- T3, T4. -/
theorem Block.feed_of_timedOut {c : Config} {k : Block} {t : Time} (h : k.timedOut c t = true) (b : Byte) :
    k.feed c b t = .ok (((k.discardFrame .timeout).stamp t).awaitByte c b, Res.invalid .timeout) := if_pos h

/-- The block with `b` stored behind the bytes of the frame in flight, before it is asked whether the frame ends. -/
abbrev Block.received (b : Byte) (t : Time) (k : Block) : Block := (k.stamp t).appendByte b (k.rxCount.toNat + 1)

/-- T6 to T9: a byte in time that finds room in `rxbuf`. -/
theorem Block.feed_of_inFrame {c : Config} {k : Block} {t : Time} (hstate : k.rxState = .inFrame)
    (htime : (t - k.rxLast).toNat ≤ c.tTimeout) (hroom : k.rxCount.toNat < c.maxFrame) (b : Byte) :
    k.feed c b t = .ok ((k.received b t).endOrGoOn c b k.rxCount.toNat) := by
  have hlate : k.timedOut c t = false := Block.timedOut_eq_false_iff.2 (.inr htime)
  have hfull : k.rxCount.toNat ≠ c.maxFrame := hroom.ne
  have hsize : k.rxCount.toNat < Space.rxbuf.size c := hroom
  simp [Block.feed, hlate, hstate, Block.accumulate, hfull, onElement_ok_iff.2 ⟨hsize, rfl⟩, Except.map]

/-- R114: the byte at the expected offset is `END` and the CHECKSUM byte is the digest. -/
theorem Block.finishFrame_of_digest_eq {c : Config} {n : Nat} {k : Block}
    (h : digest c (k.rxbuf.readRange 1 (n - 3)) = k.rxbuf.read (n - 2)) :
    k.finishFrame c c.endByte n =
      (k.latchFrame.parserReset, Res.complete (packBytes (k.rxbuf.read 1) (k.rxbuf.read 2))) := by
  obtain ⟨hend, -⟩ | ⟨-, hdigest, -⟩ | ⟨-, -, hcomplete⟩ := Block.finishFrame_cases c c.endByte n k
  · exact absurd rfl hend
  · exact absurd h hdigest
  · exact hcomplete

theorem Block.read_received {k : Block} (h : k.rxbuf.wf = true) (b : Byte) (t : Time) (a : Nat) :
    (k.received b t).rxbuf.read a = if a = k.rxCount.toNat then b else k.rxbuf.read a :=
  Memory.read_write h k.rxCount.toNat b a

theorem Block.read_received_of_lt {k : Block} (h : k.rxbuf.wf = true) (b : Byte) (t : Time) :
    ∀ a < k.rxCount.toNat, (k.received b t).rxbuf.read a = k.rxbuf.read a :=
  fun a ha => by rw [Block.read_received h, if_neg ha.ne]

/-- T9: the byte stored at the expected offset lies behind every byte that is looked at to judge the frame. -/
theorem Block.feed_completes {c : Config} {k : Block} {t : Time} (hcanonical : k.rxbuf.wf = true)
    (hstate : k.rxState = .inFrame) (htime : (t - k.rxLast).toNat ≤ c.tTimeout) (hroom : k.rxCount.toNat < c.maxFrame)
    (hfour : 4 ≤ k.rxCount.toNat) (hends : k.rxCount.toNat + 1 = (k.rxbuf.read 2).toNat + 5)
    (hdigest : digest c (k.rxbuf.readRange 1 (k.rxCount.toNat - 2)) = k.rxbuf.read (k.rxCount.toNat - 1)) :
    k.feed c c.endByte t =
      .ok ((k.received c.endByte t).latchFrame.parserReset,
        Res.complete (packBytes (k.rxbuf.read 1) (k.rxbuf.read 2))) := by
  have hbefore := Block.read_received_of_lt hcanonical c.endByte t
  have hframeEnds : (k.received c.endByte t).frameEnds (k.rxCount.toNat + 1) = true :=
    Block.frameEnds_iff.2 ⟨by omega, by rw [hbefore 2 (by omega), hends]⟩
  have hdigested : (k.received c.endByte t).rxbuf.readRange 1 (k.rxCount.toNat - 2) =
      k.rxbuf.readRange 1 (k.rxCount.toNat - 2) :=
    Memory.readRange_congr fun i hi => hbefore _ (by omega)
  rw [Block.feed_of_inFrame hstate htime hroom, Block.endOrGoOn, if_pos hframeEnds, Block.finishFrame_of_digest_eq,
    hbefore 1 (by omega), hbefore 2 (by omega)]
  calc digest c ((k.received c.endByte t).rxbuf.readRange 1 (k.rxCount.toNat - 2))
      = k.rxbuf.read (k.rxCount.toNat - 1) := by rw [hdigested, hdigest]
    _ = (k.received c.endByte t).rxbuf.read (k.rxCount.toNat - 1) := (hbefore _ (by omega)).symm

/-! The operations. -/

theorem exec_rxfeed_of_feed {s : State} {b : Byte} {k : Block} {r : Res} (h : s.blk.feed s.cfg b s.now = .ok (k, r)) :
    exec (.rxfeed b) s = .next (s.after k r) := exec_next_iff.2 ⟨k, r, h, rfl⟩

theorem exec_rxpoll_of_poll {s : State} {k : Block} {r : Res} (h : s.blk.poll s.cfg s.now = (k, r)) :
    exec .rxpoll s = .next (s.after k r) := exec_next_iff.2 ⟨k, r, congrArg Except.ok h, rfl⟩

/-- Settles O28: `feed` answers in AwaitingStart at any time, and `START` alone is written to `rxbuf`. -/
theorem rxfeedInAwaitingStart : Obligations.RxfeedInAwaitingStart := by
  refine ⟨fun s b hstate hb => ?_, fun s hstate hcanonical => ?_⟩
  · rw [exec_rxfeed_of_feed (Block.feed_of_awaitingStart hstate b s.now), Block.awaitByte_of_ne hb]
    rfl
  · refine ⟨s.blk.rxbuf.write 0 s.cfg.start, ?_, Memory.read_write hcanonical 0 s.cfg.start⟩
    rw [exec_rxfeed_of_feed (Block.feed_of_awaitingStart hstate _ s.now), Block.awaitByte_of_eq rfl]
    rfl

/-- Settles O34: storing `END` changes no byte that COMMAND, LENGTH and PAYLOAD are read from, so the latch takes them
as they stood in `rxbuf`. -/
theorem rxfeedCompletesAFrame : Obligations.RxfeedCompletesAFrame := by
  intro s hinv hstate htime hroom hfour hends hdigest
  have hcanonical := hinv.block.rxbuf_fits.canonical
  have hbefore := Block.read_received_of_lt hcanonical s.cfg.endByte s.now
  have hpayload : (s.blk.received s.cfg.endByte s.now).rxbuf.readRange 3 (s.blk.rxbuf.read 2).toNat =
      s.blk.rxbuf.readRange 3 (s.blk.rxbuf.read 2).toNat :=
    Memory.readRange_congr fun i hi => hbefore _ (by omega)
  refine ⟨(s.blk.received s.cfg.endByte s.now).rxbuf,
    s.blk.rxfPayload.writeList 0 (s.blk.rxbuf.readRange 3 (s.blk.rxbuf.read 2).toNat), _, ?_,
    Block.read_received hcanonical _ _, fun a => ?_, packBytes_toNat ..⟩
  · rw [exec_rxfeed_of_feed (Block.feed_completes hcanonical hstate htime hroom hfour hends hdigest), Block.latchFrame,
      hbefore 1 (by omega), hbefore 2 (by omega), hpayload]
    rfl
  · rw [Memory.read_writeList hinv.block.rxf_payload_fits.canonical, Memory.length_readRange]
    by_cases ha : a < (s.blk.rxbuf.read 2).toNat
    · rw [if_pos (by omega), if_pos ha, List.getD_eq_getElem?_getD, Memory.getElem?_readRange, if_pos (by omega)]
      rfl
    · rw [if_neg (by omega), if_neg ha]

/-- Settles O35: a poll is the timeout test, and it stamps nothing. -/
theorem rxpollTestsTheTimeout : Obligations.RxpollTestsTheTimeout := by
  refine ⟨fun w hcode => ?_, fun s hstate hlate => ?_, fun s hintime => ?_⟩
  · refine decode_eq_ok_iff.2 ⟨?_, trivial⟩
    rw [hcode, encode, opwCode_opwOf]
  · obtain ⟨-, hpoll⟩ | ⟨htime, -⟩ := Block.poll_cases s.cfg s.now s.blk
    · rw [exec_rxpoll_of_poll hpoll, Block.discardFrame_timeout]
      rfl
    · rw [Block.timedOut_iff.2 ⟨hstate, hlate⟩] at htime
      cases htime
  · obtain ⟨htime, -⟩ | ⟨-, hpoll⟩ := Block.poll_cases s.cfg s.now s.blk
    · rw [Block.timedOut_eq_false_iff.2 hintime] at htime
      cases htime
    · exact exec_rxpoll_of_poll hpoll

end Sys2Proof.Machine
end

section
/-! PROOFS. Bytes fed one after the other: the run of the machine that feeds them, and a parser that holds a frame
(42_rx_parser.md R110 to R116). -/

namespace Sys2Proof.Machine

/-! Streams of bytes. -/

/-- Feeding `bs` takes the block from `k` to `k'` with the results `rs`, one per byte. -/
inductive Block.Feeds (c : Config) : Block → List (Byte × Time) → Block → List Res → Prop where
  | nil (k : Block) : Block.Feeds c k [] k []
  | cons {b : Byte} {t : Time} {bs : List (Byte × Time)} {k k1 k' : Block} {r : Res} {rs : List Res}
      (h : k.feed c b t = .ok (k1, r)) (hs : Block.Feeds c k1 bs k' rs) : Block.Feeds c k ((b, t) :: bs) k' (r :: rs)

theorem Block.Feeds.append {c : Config} {k k1 k' : Block} {bs bs' : List (Byte × Time)} {rs rs' : List Res}
    (h : Block.Feeds c k bs k1 rs) (h' : Block.Feeds c k1 bs' k' rs') : Block.Feeds c k (bs ++ bs') k' (rs ++ rs') := by
  induction h with
  | nil => exact h'
  | cons hfeed _ ih => exact .cons hfeed (ih h')

theorem Block.Feeds.length_results {c : Config} {k k' : Block} {bs : List (Byte × Time)} {rs : List Res}
    (h : Block.Feeds c k bs k' rs) : rs.length = bs.length := by
  induction h with
  | nil => rfl
  | cons _ _ ih => exact congrArg Nat.succ ih

/-- A step that takes a byte from the port feeds it to the parser. -/
theorem step_rxEvents_cons {s : State} {b : Byte} {t : Time} {bs : List (Byte × Time)} {k : Block} {r : Res}
    (hinputs : s.inputs = rxEvents ((b, t) :: bs)) (hfeed : s.blk.feed s.cfg b t = .ok (k, r)) :
    step s = .next (({ s with inputs := rxEvents bs, now := t } : State).after k r) := by
  have hdecode : decode (encode (.rxfeed b)) = .ok (.rxfeed b) := decode_eq_ok_iff.2 ⟨rfl, opwByte_opwOf ..⟩
  rw [step_of_decode hinputs hdecode]
  exact exec_rxfeed_of_feed hfeed

theorem run_succ_of_step {M : Host.Core} {s s' : M.State} (h : M.step s = .next s') (n : Nat) :
    M.run (n + 1) s = M.run n s' := by
  rw [Host.Core.run, h]

/-- The machine presented with a stream of bytes does what feeding them does. -/
theorem Block.Feeds.run {s : State} {bs : List (Byte × Time)} {k : Block} {rs : List Res}
    (h : Block.Feeds s.cfg s.blk bs k rs) (hinputs : s.inputs = rxEvents bs) :
    ∃ t, Host.Core.run core bs.length s = .next t ∧ t.blk = k ∧ t.results = s.results ++ rs := by
  induction bs generalizing s rs with
  | nil =>
    cases h
    exact ⟨s, rfl, rfl, (List.append_nil _).symm⟩
  | cons p bs ih =>
    obtain ⟨b, t⟩ := p
    cases h with
    | @cons _ _ _ _ k1 _ r rs hfeed hrest =>
      obtain ⟨u, hrun, hblk, hresults⟩ := ih (s := ({ s with inputs := rxEvents bs, now := t } : State).after k1 r)
        hrest rfl
      refine ⟨u, (run_succ_of_step (M := core) (step_rxEvents_cons hinputs hfeed) bs.length).trans hrun, hblk, ?_⟩
      rw [hresults, State.after_results, List.append_assoc, List.singleton_append]

/-! Gaps between bytes. -/

theorem pacedFrom_cons {c : Config} {t : Time} {p : Byte × Time} {bs : List (Byte × Time)} :
    pacedFrom c t (p :: bs) = true ↔ (p.2 - t).toNat ≤ c.tTimeout ∧ pacedFrom c p.2 bs = true := by
  rw [pacedFrom, Bool.and_eq_true, decide_eq_true_eq]

/-- Both parts of a paced stream are paced. -/
theorem pacedFrom_append {c : Config} {t : Time} {bs bs' : List (Byte × Time)}
    (h : pacedFrom c t (bs ++ bs') = true) : pacedFrom c t bs = true ∧ paced c bs' = true := by
  induction bs generalizing t with
  | nil =>
    cases bs' with
    | nil => exact ⟨rfl, rfl⟩
    | cons p bs' => exact ⟨rfl, (pacedFrom_cons.1 h).2⟩
  | cons p bs ih =>
    obtain ⟨hgap, hrest⟩ := pacedFrom_cons.1 h
    exact ⟨pacedFrom_cons.2 ⟨hgap, (ih hrest).1⟩, (ih hrest).2⟩

theorem paced_append {c : Config} {bs bs' : List (Byte × Time)} (h : paced c (bs ++ bs') = true) :
    paced c bs = true ∧ paced c bs' = true := by
  cases bs with
  | nil => exact ⟨rfl, h⟩
  | cons p bs => exact pacedFrom_append (bs := bs) h

/-! A parser InFrame that holds bytes. -/

/-- InFrame, with `f` the bytes received since the start sentinel, that one included (R12, R13). -/
structure Block.Holds (f : List Byte) (k : Block) : Prop where
  inFrame : k.rxState = .inFrame
  count : k.rxCount.toNat = f.length
  read : ∀ i < f.length, k.rxbuf.read i = f.getD i 0
  canonical : k.rxbuf.wf = true

theorem Block.Holds.readRange {f : List Byte} {k : Block} (h : k.Holds f) {a n : Nat} (hn : a + n ≤ f.length) :
    k.rxbuf.readRange a n = (f.drop a).take n := by
  refine List.ext_getElem? fun i => ?_
  rw [Memory.getElem?_readRange, List.getElem?_take, List.getElem?_drop]
  split
  · rw [h.read _ (by omega), List.getD_eq_getElem?_getD, List.getElem?_eq_getElem (by omega), Option.getD_some]
  · rfl

theorem Block.holds_openFrame {k : Block} (h : k.rxbuf.wf = true) (b : Byte) : (k.openFrame b).Holds [b] where
  inFrame := rfl
  count := rfl
  read i hi := by
    obtain rfl : i = 0 := by simpa using hi
    rw [Block.openFrame_rxbuf, Memory.read_write h, if_pos rfl]
    rfl
  canonical := Memory.write_wf h 0 b

theorem Config.maxFrame_le_of_wf {c : Config} (h : c.wf = true) : c.maxFrame ≤ 255 := by
  obtain ⟨⟨-, hnMax⟩, -, -⟩ := Config.ranges_of_wf h
  exact Nat.add_le_add_right hnMax 5

theorem Block.Holds.received {c : Config} {f : List Byte} {k : Block} (h : k.Holds f) (hwf : c.wf = true)
    (hroom : f.length < c.maxFrame) (b : Byte) (t : Time) : (k.received b t).Holds (f ++ [b]) where
  inFrame := h.inFrame
  count := by
    have hmax := Config.maxFrame_le_of_wf hwf
    rw [Block.appendByte_rxCount, h.count, BitVec.toNat_ofNat, Nat.mod_eq_of_lt (by omega), List.length_append]
    rfl
  read i hi := by
    rw [List.length_append, List.length_singleton] at hi
    rw [Block.read_received h.canonical, h.count]
    split
    · subst i
      simp
    · rw [h.read i (by omega), List.getD_append _ _ _ _ (by omega)]
  canonical := Memory.write_wf h.canonical ..

theorem Block.Holds.frameEnds_iff {f : List Byte} {k : Block} (h : k.Holds f) :
    k.frameEnds f.length = true ↔ f.length = (f.getD 2 0).toNat + 5 := by
  rw [Block.frameEnds_iff]
  constructor
  · rintro ⟨hthree, hends⟩
    rwa [h.read 2 (by omega)] at hends
  · intro hends
    exact ⟨by omega, by rwa [h.read 2 (by omega)]⟩

/-! Frames that end: `START` in front, and as many bytes as LENGTH announces (R66, R112). -/

/-- A sequence with a frame's outline, whatever its END and CHECKSUM bytes. -/
structure FrameShaped (c : Config) (f : List Byte) : Prop where
  start : f.head? = some c.start
  length_eq : f.length = (f.getD 2 0).toNat + 5
  fits : f.length ≤ c.maxFrame

/-- A valid frame is one with the outline, `END` in place and the digest in the CHECKSUM byte (R67). -/
theorem validFrame_iff {c : Config} {f : List Byte} :
    validFrame c f ↔ FrameShaped c f ∧ f.getD (f.length - 1) 0 = c.endByte ∧
      f.getD (f.length - 2) 0 = digest c ((f.drop 1).take (f.length - 3)) := by
  have hhead : 5 ≤ f.length → (f.getD 0 0 = c.start ↔ f.head? = some c.start) := fun h => by
    rw [List.head?_eq_getElem?, List.getD_eq_getElem?_getD, List.getElem?_eq_getElem (by omega), Option.getD_some,
      Option.some_inj]
  constructor
  · rintro ⟨hfive, hstart, hfits, hlength, hend, hchecksum⟩
    exact ⟨⟨(hhead hfive).1 hstart, hlength, hlength ▸ Nat.add_le_add_right hfits 5⟩, hend, hchecksum⟩
  · rintro ⟨⟨hstart, hlength, hfits⟩, hend, hchecksum⟩
    have hfive : 5 ≤ f.length := by omega
    exact ⟨hfive, (hhead hfive).2 hstart, Nat.le_of_add_le_add_right (hlength ▸ hfits), hlength, hend, hchecksum⟩

/-- A frame cut short has not reached the offset of its END. -/
theorem FrameShaped.front_not_ended {c : Config} {f f' : List Byte} (h : FrameShaped c (f ++ f')) (hne : f' ≠ []) :
    f.length ≠ (f.getD 2 0).toNat + 5 := by
  intro hends
  have hlength := h.length_eq
  rw [List.length_append, List.getD_append _ _ _ _ (by omega)] at hlength
  exact hne (List.eq_nil_of_length_eq_zero (by omega))

theorem FrameShaped.front_fits {c : Config} {f f' : List Byte} (h : FrameShaped c (f ++ f')) (hne : f' ≠ []) :
    f.length < c.maxFrame := by
  have hpos := List.length_pos_of_ne_nil hne
  have hfits := h.fits
  rw [List.length_append] at hfits
  omega

/-! The end of a frame. -/

/-- What the parser that holds all of `f` makes of it (R114, R115). -/
def Block.verdict (c : Config) (f : List Byte) (k : Block) : Block × Res :=
  k.finishFrame c (f.getD (f.length - 1) 0) f.length

/-- The latch holds the content of `f` (R16). -/
def Block.Latched (f : List Byte) (k : Block) : Prop :=
  k.rxfValid = true ∧ (k.rxfCmd, k.rxfPayload.readRange 0 k.rxfLen.toNat) = decodeFrame f

theorem Block.Holds.latched {f : List Byte} {k : Block} (h : k.Holds f) (hlength : f.length = (f.getD 2 0).toNat + 5)
    (hcanonical : k.rxfPayload.wf = true) : k.latchFrame.parserReset.Latched f := by
  refine ⟨rfl, ?_⟩
  have hpayload : k.rxbuf.readRange 3 (f.getD 2 0).toNat = (f.drop 3).take (f.getD 2 0).toNat := h.readRange (by omega)
  have hstored := Memory.readRange_writeList hcanonical 0 (k.rxbuf.readRange 3 (f.getD 2 0).toNat)
  rw [Memory.length_readRange] at hstored
  simp only [Block.parserReset_rxfCmd, Block.parserReset_rxfPayload, Block.parserReset_rxfLen, Block.latchFrame_rxfCmd,
    Block.latchFrame_rxfPayload, Block.latchFrame_rxfLen, decodeFrame]
  rw [h.read 1 (by omega), h.read 2 (by omega), hstored, hpayload]

/-- The three verdicts, said of the bytes (R114, R115). -/
theorem Block.Holds.verdict_cases {c : Config} {f : List Byte} {k : Block} (h : k.Holds f) (hf : FrameShaped c f) :
    (f.getD (f.length - 1) 0 ≠ c.endByte ∧ k.verdict c f = (k.discardFrame .badEnd, Res.invalid .badEnd)) ∨
    (f.getD (f.length - 1) 0 = c.endByte ∧ f.getD (f.length - 2) 0 ≠ digest c ((f.drop 1).take (f.length - 3)) ∧
      k.verdict c f = (k.discardFrame .checksum, Res.invalid .checksum)) ∨
    (validFrame c f ∧ k.verdict c f =
      (k.latchFrame.parserReset, Res.complete (packBytes (f.getD 1 0) (f.getD 2 0)))) := by
  have hlength := hf.length_eq
  have hcases := Block.finishFrame_cases c (f.getD (f.length - 1) 0) f.length k
  rw [h.readRange (by omega), h.read 1 (by omega), h.read 2 (by omega), h.read _ (by omega)] at hcases
  obtain hbadEnd | ⟨hend, hdigest, hchecksum⟩ | ⟨hend, hdigest, hcomplete⟩ := hcases
  · exact .inl hbadEnd
  · exact .inr (.inl ⟨hend, hdigest.symm, hchecksum⟩)
  · exact .inr (.inr ⟨validFrame_iff.2 ⟨hf, hend, hdigest.symm⟩, hcomplete⟩)

theorem Block.Holds.verdict_of_validFrame {c : Config} {f : List Byte} {k : Block} (h : k.Holds f)
    (hf : validFrame c f) :
    k.verdict c f = (k.latchFrame.parserReset, Res.complete (packBytes (f.getD 1 0) (f.getD 2 0))) := by
  obtain ⟨hshape, hend, hchecksum⟩ := validFrame_iff.1 hf
  obtain ⟨hbad, -⟩ | ⟨-, hbad, -⟩ | ⟨-, hcomplete⟩ := h.verdict_cases hshape
  · exact absurd hend hbad
  · exact absurd hchecksum hbad
  · exact hcomplete

theorem Block.Holds.verdict_of_checksum_ne {c : Config} {f : List Byte} {k : Block} (h : k.Holds f)
    (hf : FrameShaped c f) (hend : f.getD (f.length - 1) 0 = c.endByte)
    (hne : f.getD (f.length - 2) 0 ≠ digest c ((f.drop 1).take (f.length - 3))) :
    k.verdict c f = (k.discardFrame .checksum, Res.invalid .checksum) := by
  obtain ⟨hbad, -⟩ | ⟨-, -, hchecksum⟩ | ⟨hvalid, -⟩ := h.verdict_cases hf
  · exact absurd hend hbad
  · exact hchecksum
  · exact absurd (validFrame_iff.1 hvalid).2.2 hne

/-! One more byte. -/

/-- T6, said of the bytes: the frame goes on. -/
theorem Block.Holds.feed_more {c : Config} {f : List Byte} {k : Block} (h : k.Holds f) (hwf : c.wf = true) {b : Byte}
    {t : Time} (htime : (t - k.rxLast).toNat ≤ c.tTimeout) (hroom : f.length < c.maxFrame)
    (hmore : (f ++ [b]).length ≠ ((f ++ [b]).getD 2 0).toNat + 5) :
    k.feed c b t = .ok (k.received b t, Res.incomplete) := by
  have hholds := h.received hwf hroom b t
  have hends : ¬ (k.received b t).frameEnds (k.rxCount.toNat + 1) = true := by
    rw [h.count]
    exact fun hends => hmore (hholds.frameEnds_iff.1 (by rwa [List.length_append]))
  rw [Block.feed_of_inFrame h.inFrame htime (h.count ▸ hroom), Block.endOrGoOn, if_neg hends]

/-- T7, T8, T9, said of the bytes: the frame ends. -/
theorem Block.Holds.feed_last {c : Config} {f : List Byte} {k : Block} (h : k.Holds f) (hwf : c.wf = true) {b : Byte}
    {t : Time} (htime : (t - k.rxLast).toNat ≤ c.tTimeout) (hroom : f.length < c.maxFrame)
    (hends : (f ++ [b]).length = ((f ++ [b]).getD 2 0).toNat + 5) :
    k.feed c b t = .ok ((k.received b t).verdict c (f ++ [b])) := by
  have hholds := h.received hwf hroom b t
  have hframeEnds : (k.received b t).frameEnds (k.rxCount.toNat + 1) = true := by
    rw [h.count]
    simpa using hholds.frameEnds_iff.2 hends
  rw [Block.feed_of_inFrame h.inFrame htime (h.count ▸ hroom), Block.endOrGoOn, if_pos hframeEnds, h.count,
    Block.verdict]
  simp

end Sys2Proof.Machine
end

section
/-! PROOFS. Frames fed to the parser within the timeout are received (42_rx_parser.md R124). -/

namespace Sys2Proof.Machine

/-! What accumulation leaves alone. -/

/-- The block without the registers that accumulating a frame writes (R110): the counters, the latch, the encoder and
the limiter are left. -/
def Block.outsideParser (k : Block) : Block :=
  { k with rxState := .awaitingStart, rxCount := 0, rxbuf := [], rxLast := 0 }

theorem Block.rxfPayload_eq_of_outsideParser_eq {k k' : Block} (h : k'.outsideParser = k.outsideParser) :
    k'.rxfPayload = k.rxfPayload := (congrArg Block.rxfPayload h :)

theorem Block.cntFraming_eq_of_outsideParser_eq {k k' : Block} (h : k'.outsideParser = k.outsideParser) :
    k'.cntFraming = k.cntFraming := (congrArg Block.cntFraming h :)

theorem Block.cntChecksum_eq_of_outsideParser_eq {k k' : Block} (h : k'.outsideParser = k.outsideParser) :
    k'.cntChecksum = k.cntChecksum := (congrArg Block.cntChecksum h :)

/-! A whole frame. -/

/-- The rest of a frame, its last byte included, fed within the timeout: `INCOMPLETE` up to the last byte, and then the
verdict of a parser that holds all of it. -/
theorem Block.Holds.feeds_rest {c : Config} (hwf : c.wf = true) {p : Byte × Time} {bs : List (Byte × Time)}
    {f : List Byte} {k : Block} (h : k.Holds f) (hf : FrameShaped c (f ++ (p :: bs).map Prod.fst))
    (hpaced : pacedFrom c k.rxLast (p :: bs) = true) :
    ∃ k' : Block, k'.Holds (f ++ (p :: bs).map Prod.fst) ∧ k'.outsideParser = k.outsideParser ∧
      Block.Feeds c k (p :: bs) (k'.verdict c (f ++ (p :: bs).map Prod.fst)).1
        (List.replicate bs.length Res.incomplete ++ [(k'.verdict c (f ++ (p :: bs).map Prod.fst)).2]) := by
  induction bs generalizing p f k with
  | nil =>
    have hroom := hf.front_fits (List.cons_ne_nil _ _)
    obtain ⟨hgap, -⟩ := pacedFrom_cons.1 hpaced
    exact ⟨k.received p.1 p.2, h.received hwf hroom .., rfl,
      .cons (h.feed_last hwf hgap hroom hf.length_eq) (.nil _)⟩
  | cons q bs ih =>
    have hroom := hf.front_fits (List.cons_ne_nil _ _)
    obtain ⟨hgap, hrest⟩ := pacedFrom_cons.1 hpaced
    have hsplit : f ++ (p :: q :: bs).map Prod.fst = f ++ [p.1] ++ (q :: bs).map Prod.fst := by simp
    rw [hsplit] at hf ⊢
    have hmore := hf.front_not_ended (List.cons_ne_nil _ _)
    obtain ⟨k', hholds, hsame, hfeeds⟩ := ih (h.received hwf hroom p.1 p.2) hf hrest
    exact ⟨k', hholds, hsame, .cons (h.feed_more hwf hgap hroom hmore) hfeeds⟩

/-- A frame from the byte that opens it: `k` is the block in which that byte finds the parser in AwaitingStart, its
stamp taken. -/
theorem Block.feeds_opened {c : Config} (hwf : c.wf = true) {k : Block} (hcanonical : k.rxbuf.wf = true)
    {p : Byte × Time} {bs : List (Byte × Time)} (hf : FrameShaped c ((p :: bs).map Prod.fst))
    (hstamp : k.rxLast = p.2) (hpaced : paced c (p :: bs) = true) :
    ∃ k' : Block, k'.Holds ((p :: bs).map Prod.fst) ∧ k'.outsideParser = k.outsideParser ∧
      Block.Feeds c (k.awaitByte c p.1) bs (k'.verdict c ((p :: bs).map Prod.fst)).1
        (List.replicate (bs.length - 1) Res.incomplete ++ [(k'.verdict c ((p :: bs).map Prod.fst)).2]) := by
  have hstart : p.1 = c.start := Option.some.inj hf.start
  rw [Block.awaitByte_of_eq hstart]
  cases bs with
  | nil =>
    have hlength := hf.length_eq
    simp at hlength
  | cons q bs =>
    exact (Block.holds_openFrame hcanonical p.1).feeds_rest hwf hf (hstamp ▸ hpaced)

/-- A frame from AwaitingStart. -/
theorem Block.feeds_frame {c : Config} (hwf : c.wf = true) {k : Block} (hstate : k.rxState = .awaitingStart)
    (hcanonical : k.rxbuf.wf = true) {bs : List (Byte × Time)} (hf : FrameShaped c (bs.map Prod.fst))
    (hpaced : paced c bs = true) :
    ∃ k' : Block, k'.Holds (bs.map Prod.fst) ∧ k'.outsideParser = k.outsideParser ∧
      Block.Feeds c k bs (k'.verdict c (bs.map Prod.fst)).1
        (List.replicate (bs.length - 1) Res.incomplete ++ [(k'.verdict c (bs.map Prod.fst)).2]) := by
  match bs with
  | [] | [_] =>
    have hlength := hf.length_eq
    simp at hlength
  | p :: q :: bs =>
    obtain ⟨k', hholds, hsame, hfeeds⟩ :=
      Block.feeds_opened hwf (k := k.stamp p.2) hcanonical hf rfl hpaced
    exact ⟨k', hholds, hsame, .cons (Block.feed_of_awaitingStart hstate p.1 p.2) hfeeds⟩

/-- The same with a valid frame: it is received. -/
theorem Block.feeds_validFrame {c : Config} (hwf : c.wf = true) {k : Block} (hstate : k.rxState = .awaitingStart)
    (hcanonical : k.rxbuf.wf = true) (hlatch : k.rxfPayload.wf = true) {bs : List (Byte × Time)}
    (hf : validFrame c (bs.map Prod.fst)) (hpaced : paced c bs = true) :
    ∃ k' : Block, k'.rxState = .awaitingStart ∧ k'.Latched (bs.map Prod.fst) ∧ k'.cntFraming = k.cntFraming ∧
      k'.cntChecksum = k.cntChecksum ∧
      Block.Feeds c k bs k' (List.replicate (bs.length - 1) Res.incomplete ++
        [Res.complete (packBytes ((bs.map Prod.fst).getD 1 0) ((bs.map Prod.fst).getD 2 0))]) := by
  have hshape := (validFrame_iff.1 hf).1
  obtain ⟨k', hholds, hsame, hfeeds⟩ := Block.feeds_frame hwf hstate hcanonical hshape hpaced
  rw [hholds.verdict_of_validFrame hf] at hfeeds
  exact ⟨_, rfl, hholds.latched hshape.length_eq (Block.rxfPayload_eq_of_outsideParser_eq hsame ▸ hlatch),
    (Block.cntFraming_eq_of_outsideParser_eq hsame :), (Block.cntChecksum_eq_of_outsideParser_eq hsame :), hfeeds⟩

/-- COMMAND and payload of a latch that holds an encoded frame. -/
theorem Block.Latched.of_encodeFrame {c : Config} (hwf : c.wf = true) {command : Byte} {payload : List Byte}
    (hlen : payload.length ≤ c.nMax) {k : Block} (h : k.Latched (encodeFrame c command payload)) :
    k.rxfValid = true ∧ k.rxfCmd = command ∧ k.rxfLen.toNat = payload.length ∧
      k.rxfPayload.readRange 0 payload.length = payload := by
  obtain ⟨hvalid, hcontent⟩ := h
  rw [decodeFrame_encodeFrame hwf command hlen, Prod.mk.injEq] at hcontent
  obtain ⟨hcommand, hpayload⟩ := hcontent
  have hlength : k.rxfLen.toNat = payload.length := by rw [← hpayload, Memory.length_readRange]
  exact ⟨hvalid, hcommand, hlength, hlength ▸ hpayload⟩

/-- `COMPLETE` of an encoded frame carries COMMAND and the payload's length (R110, R114). -/
theorem packBytes_encodeFrame {c : Config} (hwf : c.wf = true) (command : Byte) {payload : List Byte}
    (hlen : payload.length ≤ c.nMax) :
    packBytes ((encodeFrame c command payload).getD 1 0) ((encodeFrame c command payload).getD 2 0) =
      BitVec.ofNat 32 (command.toNat + 256 * payload.length) := by
  rw [encodeFrame_getD_command, encodeFrame_getD_length]
  refine BitVec.eq_of_toNat_eq ?_
  have hcommand := command.isLt
  obtain ⟨⟨-, hnMax⟩, -, -⟩ := Config.ranges_of_wf hwf
  rw [packBytes_toNat, lengthByte_toNat hwf hlen, BitVec.toNat_ofNat, Nat.mod_eq_of_lt (by omega)]

/-- Settles O38: both ways of opening the frame lead to a parser that holds all of it, and an encoded frame is valid. -/
theorem framesAreReceived : Obligations.FramesAreReceived := by
  refine ⟨fun s command payload bs hinv hstate hlen hbytes hpaced hinputs => ?_,
    fun s command payload p bs hinv hstate hlate hlen hbytes hpaced hinputs => ?_⟩
  · have hvalid := validFrame_encodeFrame hinv.config command hlen
    have hlength : bs.length = payload.length + 5 := by rw [← length_encodeFrame, ← hbytes, List.length_map]
    obtain ⟨k, hawaiting, hlatched, hframing, hchecksum, hfeeds⟩ := Block.feeds_validFrame hinv.config hstate
      hinv.block.rxbuf_fits.canonical hinv.block.rxf_payload_fits.canonical (hbytes ▸ hvalid) hpaced
    rw [hbytes] at hlatched
    obtain ⟨t, hrun, rfl, hresults⟩ := hfeeds.run hinputs
    obtain ⟨hv, hcmd, hl, hp⟩ := hlatched.of_encodeFrame hinv.config hlen
    refine ⟨t, hrun, ?_, hawaiting, hv, hcmd, hl, hp, hframing, hchecksum⟩
    rw [hresults, hbytes, packBytes_encodeFrame hinv.config command hlen, hlength, List.append_assoc]
    rfl
  · have hvalid := validFrame_encodeFrame hinv.config command hlen
    have hlength : bs.length + 1 = payload.length + 5 := by
      rw [← length_encodeFrame, ← hbytes, List.length_map, List.length_cons]
    have hshape := (validFrame_iff.1 hvalid).1
    have hfirst := Block.feed_of_timedOut (Block.timedOut_iff.2 ⟨hstate, hlate⟩) p.1
    obtain ⟨k, hholds, hsame, hrest⟩ := Block.feeds_opened hinv.config
      (k := (s.blk.discardFrame .timeout).stamp p.2) hinv.block.rxbuf_fits.canonical (hbytes ▸ hshape) rfl hpaced
    rw [hbytes] at hholds hrest
    rw [hholds.verdict_of_validFrame hvalid, packBytes_encodeFrame hinv.config command hlen] at hrest
    have hpayload : k.rxfPayload = s.blk.rxfPayload := (Block.rxfPayload_eq_of_outsideParser_eq hsame :)
    have hlatched := hholds.latched hshape.length_eq (hpayload ▸ hinv.block.rxf_payload_fits.canonical)
    obtain ⟨t, hrun, hblk, hresults⟩ := (Block.Feeds.cons hfirst hrest).run hinputs
    change t.blk = k.latchFrame.parserReset at hblk
    rw [← hblk] at hlatched
    obtain ⟨hv, hcmd, hl, hp⟩ := hlatched.of_encodeFrame hinv.config hlen
    refine ⟨t, hrun, ?_, congrArg Block.rxState hblk, hv, hcmd, hl, hp⟩
    rw [hresults, show bs.length - 1 = payload.length + 3 by omega, List.append_assoc, List.append_assoc]
    rfl

end Sys2Proof.Machine
end

section
/-! PROOFS. A frame with one changed byte, and the frame behind it (40_checksum_digest.md R91; 42_rx_parser.md R126,
R127). -/

namespace Sys2Proof.Machine

/-- Property P2 for a sequence with its byte at `i` replaced (R91). -/
theorem digest_set_ne {c : Config} (h : c.SinglePositionSensitive) {l : List Byte} {i : Nat} {b : Byte}
    (hi : i < l.length) (hne : l[i]? ≠ some b) (hmin : 2 ≤ l.length) (hmax : l.length ≤ c.nMax + 2) :
    digest c (l.set i b) ≠ digest c l := by
  have hchanged : b ≠ l[i] := fun hb => hne (by rw [List.getElem?_eq_getElem hi, hb])
  have hparts : l.take i ++ l[i] :: l.drop (i + 1) = l := by rw [List.getElem_cons_drop, List.take_append_drop]
  have hlength : (l.take i).length + 1 + (l.drop (i + 1)).length = l.length := by
    rw [List.length_take, List.length_drop]
    omega
  calc digest c (l.set i b)
      = digest c (l.take i ++ b :: l.drop (i + 1)) := by rw [List.set_eq_take_append_cons_drop, if_pos hi]
    _ ≠ digest c (l.take i ++ l[i] :: l.drop (i + 1)) :=
      h _ _ _ _ hchanged (by rwa [hlength]) (by rwa [hlength])
    _ = digest c l := by rw [hparts]

theorem getD_set_of_ne {l : List Byte} {i j : Nat} (h : i ≠ j) (b : Byte) : (l.set i b).getD j 0 = l.getD j 0 := by
  rw [List.getD_eq_getElem?_getD, List.getD_eq_getElem?_getD, List.getElem?_set_ne h]

/-- A byte changed anywhere but at START and LENGTH leaves the outline of the frame. -/
theorem FrameShaped.set {c : Config} {f : List Byte} (h : FrameShaped c f) {i : Nat} (hi : i = 1 ∨ 3 ≤ i) (b : Byte) :
    FrameShaped c (f.set i b) where
  start := by
    rw [List.head?_eq_getElem?, List.getElem?_set_ne (by omega), ← List.head?_eq_getElem?]
    exact h.start
  length_eq := by
    rw [List.length_set, getD_set_of_ne (by omega)]
    exact h.length_eq
  fits := by
    rw [List.length_set]
    exact h.fits

/-- R126(a), (b): a changed COMMAND, PAYLOAD or CHECKSUM byte shows in the comparison with the digest. -/
theorem checksum_ne_of_set {c : Config} (hsensitive : c.SinglePositionSensitive) {f : List Byte} (hf : validFrame c f)
    {i : Nat} {b : Byte} (hi : i = 1 ∨ 3 ≤ i) (hlt : i + 1 < f.length) (hne : f[i]? ≠ some b) :
    (f.set i b).getD (f.length - 2) 0 ≠ digest c (((f.set i b).drop 1).take (f.length - 3)) := by
  obtain ⟨hshape, -, hchecksum⟩ := validFrame_iff.1 hf
  have hlength := hshape.length_eq
  have hfits : f.length ≤ c.nMax + 5 := hshape.fits
  have hdigested : ((f.set i b).drop 1).take (f.length - 3) = ((f.drop 1).take (f.length - 3)).set (i - 1) b := by
    rw [List.drop_set, if_neg (by omega), List.take_set]
  have hcovered : ((f.drop 1).take (f.length - 3)).length = f.length - 3 := by
    rw [List.length_take, List.length_drop]
    omega
  rw [hdigested]
  by_cases hlast : i = f.length - 2
  · have hold : f.getD (f.length - 2) 0 ≠ b := fun hb => hne (by
      rw [hlast, ← hb, List.getD_eq_getElem?_getD, List.getElem?_eq_getElem (by omega), Option.getD_some])
    have hnew : (f.set i b).getD (f.length - 2) 0 = b := by
      rw [hlast, List.getD_eq_getElem?_getD, List.getElem?_set_self (by omega), Option.getD_some]
    rw [hnew, List.set_eq_of_length_le (by omega), ← hchecksum]
    exact hold.symm
  · rw [getD_set_of_ne hlast, hchecksum]
    refine (digest_set_ne hsensitive (by omega) ?_ (by omega) (by omega)).symm
    rwa [List.getElem?_take_of_lt (by omega), List.getElem?_drop, show 1 + (i - 1) = i by omega]

/-- A frame with such a byte changed, from AwaitingStart: `CHECKSUM` at its last byte and nothing before; the payload
in the latch stays. -/
theorem Block.feeds_changedFrame {c : Config} (hc : c.Legal) {k : Block} (hstate : k.rxState = .awaitingStart)
    (hcanonical : k.rxbuf.wf = true) {f : List Byte} (hf : validFrame c f) {i : Nat} {b : Byte} (hi : i = 1 ∨ 3 ≤ i)
    (hlt : i + 1 < f.length) (hne : f[i]? ≠ some b) {bs : List (Byte × Time)} (hbytes : bs.map Prod.fst = f.set i b)
    (hpaced : paced c bs = true) :
    ∃ k' : Block, k'.rxState = .awaitingStart ∧ k'.rxbuf.wf = true ∧ k'.rxfPayload = k.rxfPayload ∧
      Block.Feeds c k bs k' (List.replicate (f.length - 1) Res.incomplete ++ [Res.invalid .checksum]) := by
  obtain ⟨hshape, hend, -⟩ := validFrame_iff.1 hf
  have hshape' := hshape.set hi b
  have hlength : bs.length = f.length := by rw [← List.length_set (as := f), ← hbytes, List.length_map]
  have hend' : (f.set i b).getD ((f.set i b).length - 1) 0 = c.endByte := by
    rw [List.length_set, getD_set_of_ne (by omega), hend]
  have hchecksum := checksum_ne_of_set hc.sensitive hf hi hlt hne
  obtain ⟨k', hholds, hsame, hfeeds⟩ := Block.feeds_frame hc.params hstate hcanonical (hbytes ▸ hshape') hpaced
  rw [hbytes] at hholds hfeeds
  rw [hholds.verdict_of_checksum_ne hshape' hend' (by rwa [List.length_set]), hlength] at hfeeds
  exact ⟨k'.discardFrame .checksum, Block.discardFrame_rxState .., hholds.canonical,
    (Block.rxfPayload_eq_of_outsideParser_eq hsame :), hfeeds⟩

/-- Settles O40: the discard leaves the parser in AwaitingStart, and from there the second frame is received whatever
`rxbuf` still holds. -/
theorem badFrameDoesNotTaintTheNext : Obligations.BadFrameDoesNotTaintTheNext := by
  intro s f g i b bs hinv hlegal hstate hf hg hi hlt hne hbytes hpaced hinputs
  obtain ⟨bs₁, bs₂, rfl, hfirst, rfl⟩ := List.map_eq_append_iff.1 hbytes
  obtain ⟨hpaced₁, hpaced₂⟩ := paced_append hpaced
  obtain ⟨k₁, hstate₁, hcanonical₁, hpayload₁, hfeeds₁⟩ := Block.feeds_changedFrame hlegal hstate
    hinv.block.rxbuf_fits.canonical hf hi hlt hne hfirst hpaced₁
  obtain ⟨k₂, -, hlatched, -, -, hfeeds₂⟩ := Block.feeds_validFrame hlegal.params hstate₁ hcanonical₁
    (hpayload₁ ▸ hinv.block.rxf_payload_fits.canonical) hg hpaced₂
  obtain ⟨t, hrun, hblk, hresults⟩ := (hfeeds₁.append hfeeds₂).run hinputs
  rw [← hblk] at hlatched
  refine ⟨t, packBytes ((bs₂.map Prod.fst).getD 1 0) ((bs₂.map Prod.fst).getD 2 0), hrun, ?_, hlatched⟩
  rw [hresults, List.length_map]
  simp only [List.append_assoc]
  rfl

end Sys2Proof.Machine
end

section
/-! PROOFS. Any bytes at any times: a `COMPLETE` is about a valid frame (42_rx_parser.md R123). -/

namespace Sys2Proof.Machine

/-- What is known of the parser after the bytes `fed`: it never faults, and InFrame it holds the last of them, from a
start sentinel on. -/
structure Block.Tracks (c : Config) (fed : List Byte) (k : Block) : Prop where
  room : k.rxCount.toNat ≤ c.maxFrame
  canonical : k.rxbuf.wf = true
  latch_canonical : k.rxfPayload.wf = true
  holds : k.rxState = .inFrame → ∃ f, f <:+ fed ∧ f.head? = some c.start ∧ k.Holds f

/-- In AwaitingStart there is nothing to hold. -/
theorem Block.Tracks.of_awaitingStart {c : Config} {fed : List Byte} {k : Block} (hstate : k.rxState = .awaitingStart)
    (hroom : k.rxCount.toNat ≤ c.maxFrame) (hcanonical : k.rxbuf.wf = true) (hlatch : k.rxfPayload.wf = true) :
    k.Tracks c fed where
  room := hroom
  canonical := hcanonical
  latch_canonical := hlatch
  holds h := by
    rw [hstate] at h
    cases h

theorem Block.Tracks.discardFrame {c : Config} {fed : List Byte} {k : Block} (hcanonical : k.rxbuf.wf = true)
    (hlatch : k.rxfPayload.wf = true) (r : Reason) : (k.discardFrame r).Tracks c fed :=
  .of_awaitingStart (by simp) (by simp) (by simpa) (by simpa)

theorem Block.Tracks.stamp {c : Config} {fed : List Byte} {k : Block} (h : k.Tracks c fed) (t : Time) :
    (k.stamp t).Tracks c fed where
  room := h.room
  canonical := h.canonical
  latch_canonical := h.latch_canonical
  holds hin := by
    obtain ⟨f, hsuffix, hstart, hholds⟩ := h.holds hin
    exact ⟨f, hsuffix, hstart, hholds.inFrame, hholds.count, hholds.read, hholds.canonical⟩

theorem Block.Tracks.awaitByte {c : Config} {k : Block} {fed : List Byte} (h : k.Tracks c fed)
    (hstate : k.rxState = .awaitingStart) (b : Byte) : (k.awaitByte c b).Tracks c (fed ++ [b]) := by
  by_cases hb : b = c.start
  · rw [Block.awaitByte_of_eq hb]
    exact {
      room := Nat.le_add_left 1 (c.nMax + 4)
      canonical := Memory.write_wf h.canonical 0 b
      latch_canonical := h.latch_canonical
      holds := fun _ => ⟨[b], List.suffix_append fed [b], congrArg some hb, Block.holds_openFrame h.canonical b⟩ }
  · rw [Block.awaitByte_of_ne hb]
    exact .of_awaitingStart hstate h.room h.canonical h.latch_canonical

/-- A parser InFrame that stores `b` holds the last bytes fed, `b` included. -/
theorem Block.Tracks.received {c : Config} (hwf : c.wf = true) {fed : List Byte} {k : Block} (h : k.Tracks c fed)
    (hstate : k.rxState = .inFrame) (hroom : k.rxCount.toNat < c.maxFrame) (b : Byte) (t : Time) :
    ∃ f, f <:+ fed ++ [b] ∧ f.head? = some c.start ∧ f.length = k.rxCount.toNat + 1 ∧
      f.getD (f.length - 1) 0 = b ∧ (k.received b t).Holds f := by
  obtain ⟨f, ⟨before, hbefore⟩, hstart, hholds⟩ := h.holds hstate
  refine ⟨f ++ [b], ⟨before, by rw [← hbefore, List.append_assoc]⟩, ?_, ?_, ?_, hholds.received hwf ?_ b t⟩
  · rw [List.head?_append, hstart, Option.some_or]
  · rw [List.length_append, hholds.count, List.length_singleton]
  · simp
  · rwa [← hholds.count]

/-- One more byte, at any time: the parser still holds the last bytes fed, and where it answers `COMPLETE` they were a
valid frame whose content is in the latch. -/
theorem Block.Tracks.feed {c : Config} (hwf : c.wf = true) {fed : List Byte} {k k' : Block} {r : Res}
    (h : k.Tracks c fed) {b : Byte} {t : Time} (hfeed : k.feed c b t = .ok (k', r)) :
    k'.Tracks c (fed ++ [b]) ∧ (r.st = .complete → ∃ f, f <:+ fed ++ [b] ∧ validFrame c f ∧ k'.Latched f) := by
  cases Block.feed_cases hfeed with
  | late =>
    have hreset : (k.discardFrame .timeout).Tracks c fed := .discardFrame h.canonical h.latch_canonical .timeout
    exact ⟨(hreset.stamp t).awaitByte rfl b, nofun⟩
  | await hstate => exact ⟨(h.stamp t).awaitByte hstate b, nofun⟩
  | overflow => exact ⟨.discardFrame (k := k.stamp t) h.canonical h.latch_canonical _, nofun⟩
  | more _ hstate hroom _ =>
    obtain ⟨f, hsuffix, hstart, hlength, -, hholds⟩ := h.received hwf hstate hroom b t
    refine ⟨⟨?_, hholds.canonical, h.latch_canonical, fun _ => ⟨f, hsuffix, hstart, hholds⟩⟩, nofun⟩
    rw [hholds.count, hlength]
    exact hroom
  | finish _ hstate hroom hends k' r hfinish =>
    obtain ⟨f, hsuffix, hstart, hlength, hlast, hholds⟩ := h.received hwf hstate hroom b t
    have hshape : FrameShaped c f :=
      ⟨hstart, hholds.frameEnds_iff.1 (hlength ▸ hends), hlength ▸ hroom⟩
    have hverdict : (k.received b t).verdict c f = (k', r) := by rw [Block.verdict, hlast, hlength, hfinish]
    have hlatch : (k.received b t).rxfPayload.wf = true := h.latch_canonical
    obtain ⟨-, hbad⟩ | ⟨-, -, hbad⟩ | ⟨hvalid, hcomplete⟩ := hholds.verdict_cases hshape
    · cases hbad.symm.trans hverdict
      exact ⟨.discardFrame hholds.canonical hlatch _, nofun⟩
    · cases hbad.symm.trans hverdict
      exact ⟨.discardFrame hholds.canonical hlatch _, nofun⟩
    · cases hcomplete.symm.trans hverdict
      exact ⟨.of_awaitingStart rfl (Nat.zero_le _) hholds.canonical (Memory.writeList_wf hlatch ..),
        fun _ => ⟨f, hsuffix, hvalid, hholds.latched hshape.length_eq hlatch⟩⟩

/-- Any bytes at any times are fed without a fault; a `COMPLETE` at the last of them is about a valid frame. -/
theorem Block.Tracks.feeds {c : Config} (hwf : c.wf = true) {k : Block} (h : k.Tracks c []) (bs : List (Byte × Time)) :
    ∃ k' rs, Block.Feeds c k bs k' rs ∧ k'.Tracks c (bs.map Prod.fst) ∧
      ∀ r, rs.getLast? = some r → r.st = .complete →
        ∃ f, f <:+ bs.map Prod.fst ∧ validFrame c f ∧ k'.Latched f := by
  induction bs using List.reverseRecOn with
  | nil => exact ⟨k, [], .nil k, h, nofun⟩
  | append_singleton bs p ih =>
    obtain ⟨k₁, rs, hfeeds, htracks, -⟩ := ih
    obtain ⟨⟨k', r⟩, hfeed⟩ := Block.feed_answers (b := p.1) (t := p.2) htracks.room
    obtain ⟨htracks', hcomplete⟩ := htracks.feed hwf hfeed
    rw [List.map_append, List.map_singleton]
    refine ⟨k', rs ++ [r], hfeeds.append (.cons hfeed (.nil k')), htracks', fun r' hlast => ?_⟩
    obtain rfl : r = r' := by simpa using hlast
    exact hcomplete

/-- Settles O37: the bytes the parser holds are the last bytes fed, so a frame it completes is a suffix of them. -/
theorem completeMeansAValidFrame : Obligations.CompleteMeansAValidFrame := by
  intro s bs hinv hstate hinputs
  have htracks : s.blk.Tracks s.cfg [] := .of_awaitingStart hstate hinv.block.count_le
    hinv.block.rxbuf_fits.canonical hinv.block.rxf_payload_fits.canonical
  obtain ⟨k, rs, hfeeds, -, hcomplete⟩ := htracks.feeds hinv.config bs
  obtain ⟨t, hrun, rfl, hresults⟩ := hfeeds.run hinputs
  refine ⟨t, hrun, by rw [hresults, List.length_append, hfeeds.length_results], fun r hne hlast hst => ?_⟩
  have hrs : rs ≠ [] := by
    rw [← List.length_pos_iff, hfeeds.length_results]
    exact List.length_pos_iff.2 hne
  rw [hresults, List.getLast?_append_of_ne_nil _ hrs] at hlast
  obtain ⟨f, ⟨before, hbefore⟩, hvalid, hlatched⟩ := hcomplete r hlast hst
  refine ⟨before.length, ?_⟩
  rw [← hbefore, List.drop_left]
  exact ⟨hvalid, hlatched⟩

end Sys2Proof.Machine
end

section
/-! PROOFS. Buffer and status access (43_buffer_access.md R140, R142 to R144; 10_state.md R22). -/

namespace Sys2Proof.Machine

/-! From the word to the operation, and from its effect on the block to the state after it. -/

theorem decode_of_opwCode {w : Word} {i : Instr} {c ch : BitVec 4} {x : Byte} {v : BitVec 16} (hcode : opwCode w = c)
    (hencode : encode i = opwOf c ch x v) (hoperands : i.OperandsIn w) : decode w = .ok i := by
  refine decode_eq_ok_iff.2 ⟨?_, hoperands⟩
  rw [hcode, hencode, opwCode_opwOf]

theorem exec_of_perform {i : Instr} {s : State} {k : Block} {r : Res} (h : s.blk.perform s.cfg s.now i = .ok (k, r)) :
    exec i s = .next (s.after k r) := exec_next_iff.2 ⟨k, r, h, rfl⟩

theorem zext32_eq_ofNat (b : Byte) : zext32 b = BitVec.ofNat 32 b.toNat := (BitVec.ofNat_toNat 32 b).symm

theorem zext32_toNat (b : Byte) : (zext32 b).toNat = b.toNat := BitVec.toNat_setWidth_of_le (by decide)

/-! `TXPWR`. -/

theorem exec_txpwr_of_lt {s : State} {idx : Byte} (h : idx.toNat < s.cfg.nMax) (byte : Byte) :
    exec (.txpwr idx byte) s = .next (s.after (s.blk.stage idx.toNat byte) (Res.done 0)) := by
  obtain ⟨hle, -⟩ | ⟨-, hstored⟩ := Block.stagePayload_cases s.cfg idx.toNat byte s.blk
  · omega
  · exact exec_of_perform (congrArg Except.ok hstored)

theorem exec_txpwr_of_le {s : State} {idx : Byte} (h : s.cfg.nMax ≤ idx.toNat) (byte : Byte) :
    exec (.txpwr idx byte) s = .next (s.after s.blk (Res.refused .badIndex)) := by
  obtain ⟨-, hrefused⟩ | ⟨hlt, -⟩ := Block.stagePayload_cases s.cfg idx.toNat byte s.blk
  · exact exec_of_perform (congrArg Except.ok hrefused)
  · omega

/-- Settles O16: the new `txp` is the old one after one write, and a canonical buffer reads back only that write. -/
theorem txpwrStoresOneByte : Obligations.TxpwrStoresOneByte :=
  ⟨fun _ hcode => decode_of_opwCode hcode rfl ⟨rfl, rfl⟩,
    fun s idx byte hcanonical hidx => ⟨s.blk.txp.write idx.toNat byte, exec_txpwr_of_lt hidx byte,
      Memory.read_write hcanonical idx.toNat byte⟩,
    fun _ _ byte hidx => exec_txpwr_of_le hidx byte⟩

/-! `TXFRD` and `RXFRD`: an index below the length register is an element of the buffer. -/

theorem Block.readTxFrame_of_lt {c : Config} {k : Block} {i : Nat} (hi : i < k.txfLen.toNat)
    (hlen : k.txfLen.toNat ≤ c.maxFrame) : k.readTxFrame c i = .ok (k, Res.done (zext32 (k.txf.read i))) := by
  rw [Block.readTxFrame, if_neg (Nat.not_le.2 hi)]
  exact onElement_ok_iff.2 ⟨Nat.lt_of_lt_of_le hi hlen, rfl⟩

theorem Block.readTxFrame_of_le {c : Config} {k : Block} {i : Nat} (hi : k.txfLen.toNat ≤ i) :
    k.readTxFrame c i = .ok (k, Res.refused .badIndex) := if_pos hi

theorem Block.readRxPayload_of_lt {c : Config} {k : Block} {i : Nat} (hvalid : k.rxfValid = true)
    (hi : i < k.rxfLen.toNat) (hlen : k.rxfLen.toNat ≤ c.nMax) :
    k.readRxPayload c i = .ok (k, Res.done (zext32 (k.rxfPayload.read i))) := by
  have hread : ¬(k.rxfValid = false ∨ k.rxfLen.toNat ≤ i) := by
    rintro (hinvalid | hle)
    · exact Bool.false_ne_true (hinvalid.symm.trans hvalid)
    · omega
  rw [Block.readRxPayload, if_neg hread]
  exact onElement_ok_iff.2 ⟨Nat.lt_of_lt_of_le hi hlen, rfl⟩

theorem Block.readRxPayload_of_invalid_or_le {c : Config} {k : Block} {i : Nat}
    (h : k.rxfValid = false ∨ k.rxfLen.toNat ≤ i) : k.readRxPayload c i = .ok (k, Res.refused .badIndex) := if_pos h

/-- R10: `txf_len` never exceeds the buffer, whether or not a frame has been encoded. -/
theorem Block.Inv.txf_len_le {c : Config} {k : Block} (h : k.Inv c) : k.txfLen.toNat ≤ c.maxFrame := by
  obtain hzero | ⟨-, hle⟩ := h.txf_len_range
  · rw [hzero]
    exact Nat.zero_le _
  · exact hle

/-- Settles O17: the invariant keeps `txf_len` within `txf`, so the read never faults. -/
theorem txfrdReadsTheFrame : Obligations.TxfrdReadsTheFrame := by
  refine ⟨fun w hcode => decode_of_opwCode hcode rfl rfl, fun s idx hinv hidx => ?_,
    fun s idx hidx => exec_of_perform (Block.readTxFrame_of_le hidx)⟩
  rw [← zext32_eq_ofNat]
  exact exec_of_perform (Block.readTxFrame_of_lt hidx hinv.block.txf_len_le)

/-- Settles O18: the invariant keeps `rxf_len` within `rxf_payload`, so the read never faults. -/
theorem rxfrdReadsTheLatch : Obligations.RxfrdReadsTheLatch := by
  refine ⟨fun w hcode => decode_of_opwCode hcode rfl rfl, fun s idx hinv hvalid hidx => ?_,
    fun s idx h => exec_of_perform (Block.readRxPayload_of_invalid_or_le h)⟩
  rw [← zext32_eq_ofNat]
  exact exec_of_perform (Block.readRxPayload_of_lt hvalid hidx hinv.block.rxf_len_le)

/-! `CSRRD`: which indices have an entry. -/

/-- The indices R22 gives an entry, where there are `nCh` channels. -/
def IsStatusIndex (nCh i : Nat) : Prop := i ≤ 5 ∨ 8 ≤ i ∧ i ≤ 0xA ∨ 0x10 ≤ i ∧ i < 0x10 + nCh

theorem rampCfg_isSome_iff {c : Config} {ch : Nat} : (rampCfg c ch).isSome ↔ ch < c.nCh := by
  rw [rampCfg, Option.isSome_map, isSome_getElem?]
  rfl

theorem Block.statusReg_isSome_of_lt {i : Nat} (h : i < 0x10) (c : Config) (k : Block) :
    (k.statusReg c i).isSome = decide (i ≤ 5 ∨ 8 ≤ i ∧ i ≤ 0xA) := by
  interval_cases i <;> rfl

/-- The status map has entries at the indices of R22 and nowhere else: a table below 0x10, then the channels. -/
theorem Block.statusReg_isSome_iff {c : Config} {k : Block} {i : Nat} :
    (k.statusReg c i).isSome ↔ IsStatusIndex c.nCh i := by
  unfold IsStatusIndex
  obtain hlt | hle := Nat.lt_or_ge i 0x10
  · rw [Block.statusReg_isSome_of_lt hlt, decide_eq_true_iff]
    omega
  · obtain ⟨ch, rfl⟩ := Nat.exists_eq_add_of_le hle
    rw [Block.statusReg_ramp, rampCfg_isSome_iff]
    omega

/-- What the entry at an index reads as, and 0 where R22 has none. -/
def Block.statusValue (c : Config) (k : Block) (idx : Byte) : Word := (k.statusReg c idx.toNat).getD 0

theorem Block.statusValue_of_eq_some {c : Config} {k : Block} {idx : Byte} {w : Word}
    (h : k.statusReg c idx.toNat = some w) : k.statusValue c idx = w := by
  rw [Block.statusValue, h, Option.getD_some]

theorem exec_csrrd_of_isStatusIndex {s : State} {idx : Byte} (h : IsStatusIndex s.cfg.nCh idx.toNat) :
    exec (.csrrd idx) s = .next (s.after s.blk (Res.done (s.blk.statusValue s.cfg idx))) := by
  obtain ⟨v, hv, hread⟩ | ⟨hnone, -⟩ := Block.readStatus_cases s.cfg idx.toNat s.blk
  · rw [Block.statusValue_of_eq_some hv]
    exact exec_of_perform (congrArg Except.ok hread)
  · have hsome := Block.statusReg_isSome_iff (k := s.blk).2 h
    rw [hnone] at hsome
    cases hsome

theorem exec_csrrd_of_not_isStatusIndex {s : State} {idx : Byte} (h : ¬IsStatusIndex s.cfg.nCh idx.toNat) :
    exec (.csrrd idx) s = .next (s.after s.blk (Res.refused .badIndex)) := by
  obtain ⟨v, hv, -⟩ | ⟨-, hread⟩ := Block.readStatus_cases s.cfg idx.toNat s.blk
  · exact absurd (Block.statusReg_isSome_iff.1 (Option.isSome_of_eq_some hv)) h
  · exact exec_of_perform (congrArg Except.ok hread)

/-! The words of the entries as numbers. -/

theorem counterWord_toNat (n : BitVec 16) : (n.zeroExtend 32).toNat = n.toNat :=
  BitVec.toNat_setWidth_of_le (by decide)

theorem RxState.bit_toNat (x : RxState) : x.bit.toNat = if x = .inFrame then 1 else 0 := by
  cases x <;> rfl

theorem toNat_ofBool_eq_ite (b : Bool) : (BitVec.ofBool b).toNat = if b = true then 1 else 0 := by
  cases b <;> rfl

/-- `STATUS` as a number: three flags and `rx_count` in the second byte (R22). -/
theorem Block.statusWord_toNat (k : Block) :
    k.statusWord.toNat = (if k.rxState = .inFrame then 1 else 0) + (if k.rxfValid = true then 2 else 0)
      + (if k.estop = true then 4 else 0) + 256 * k.rxCount.toNat := by
  have hvalid := mul_boole (k.rxfValid = true) 2
  have hestop := mul_boole (k.estop = true) 4
  simp only [Block.statusWord, toNat_append_eq_add, RxState.bit_toNat, toNat_ofBool_eq_ite, BitVec.ofNat_eq_ofNat,
    BitVec.toNat_zero]
  omega

/-- The index of a ramp entry is a byte, since R6 allows at most 16 channels. -/
theorem rampIndex_toNat {c : Config} (h : c.wf = true) {ch : Nat} (hch : ch < c.nCh) :
    (BitVec.ofNat 8 (0x10 + ch)).toNat = 0x10 + ch := by
  obtain ⟨-, -, -, hnCh⟩ := Config.ranges_of_wf h
  rw [BitVec.toNat_ofNat, Nat.mod_eq_of_lt (by omega)]

/-- Settles O19: the value read is the entry of the status map, and R6 keeps each parameter within its field. -/
theorem csrrdReadsTheStatusMap : Obligations.CsrrdReadsTheStatusMap := by
  refine ⟨fun w hcode => decode_of_opwCode hcode rfl rfl, fun s hwf => ?_, fun s idx hidx => ?_⟩
  · refine ⟨s.blk.statusValue s.cfg, fun _ => exec_csrrd_of_isStatusIndex,
      Block.statusWord_toNat s.blk, counterWord_toNat s.blk.cntFraming, counterWord_toNat s.blk.cntChecksum,
      packBytes_toNat .., zext32_toNat s.blk.txfLen, rfl, packBytes_toNat .., limitsWord_toNat hwf,
      timeoutWord_toNat hwf, fun ch r hr => ?_⟩
    obtain ⟨w, hw, hrates⟩ := rampCfg_toNat hwf hr
    obtain ⟨hch, -⟩ := List.getElem?_eq_some_iff.1 hr
    have hentry : s.blk.statusReg s.cfg (BitVec.ofNat 8 (0x10 + ch)).toNat = some w := by
      rw [rampIndex_toNat hwf hch, Block.statusReg_ramp, hw]
    rw [Block.statusValue_of_eq_some hentry, hrates]
  · refine exec_csrrd_of_not_isStatusIndex ?_
    unfold IsStatusIndex
    omega

end Sys2Proof.Machine
end

section
/-! PROOFS. The ramp limiter: `RLSET`, `RLADV` and `RLRD` (44_ramp_limiter.md R150 to R156). -/

namespace Sys2Proof.Machine

/-! `RLSET` and `RLRD`: a channel the state holds is accessed, one the instance lacks is refused. -/

theorem Block.setTarget_of_lt {c : Config} {k : Block} {ch : Nat} (hch : ch < c.nCh) (hheld : ch < k.channels.length)
    (p : Int) : k.setTarget c ch p = .ok (k.storeTarget ch (k.targetValue p), Res.done (zext32 (k.targetValue p))) := by
  rw [Block.setTarget, if_neg (Nat.not_le.2 hch)]
  exact Block.onChannel_ok_iff.2 ⟨_, List.getElem?_eq_getElem hheld, rfl⟩

theorem Block.setTarget_of_le {c : Config} {ch : Nat} (h : c.nCh ≤ ch) (k : Block) (p : Int) :
    k.setTarget c ch p = .ok (k, Res.refused .badChannel) := if_pos h

theorem Block.readChannel_of_lt {c : Config} {k : Block} {ch : Nat} {x : Channel} (hch : ch < c.nCh)
    (hx : k.channels[ch]? = some x) : k.readChannel c ch = .ok (k, Res.done (packBytes x.actual x.target)) := by
  rw [Block.readChannel, if_neg (Nat.not_le.2 hch)]
  exact Block.onChannel_ok_iff.2 ⟨x, hx, rfl⟩

theorem Block.readChannel_of_le {c : Config} {ch : Nat} (h : c.nCh ≤ ch) (k : Block) :
    k.readChannel c ch = .ok (k, Res.refused .badChannel) := if_pos h

theorem packBytes_eq_ofNat (lo hi : Byte) : packBytes lo hi = BitVec.ofNat 32 (lo.toNat + 256 * hi.toNat) := by
  rw [← packBytes_toNat, BitVec.ofNat_toNat, BitVec.setWidth_eq]

/-- Settles O47: the word that `RLRD` packs is `actual + 256 * target`. -/
theorem rlrdReadsTheChannel : Obligations.RlrdReadsTheChannel := by
  refine ⟨fun w hcode => decode_of_opwCode hcode rfl rfl, fun s ch x hch hx => ?_,
    fun s ch hch => exec_of_perform (Block.readChannel_of_le hch s.blk)⟩
  rw [← packBytes_eq_ofNat]
  exact exec_of_perform (Block.readChannel_of_lt hch hx)

/-- The value stored: `SAFE`, which is 0, under emergency stop, and the clamped percent otherwise (R150, R159). -/
theorem Block.targetValue_toNat (k : Block) (p : Int) :
    ((k.targetValue p).toNat : Int) = if k.estop = true then 0 else max 0 (min 100 p) := by
  unfold Block.targetValue
  split
  · rfl
  · exact clampPercent_toNat p

/-- A store replaces the target of its channel and leaves that channel's actual and every other channel (R150). -/
theorem Block.storeTarget_channels_getElem? (ch : Nat) (v : Byte) (k : Block) (i : Nat) :
    (k.storeTarget ch v).channels[i]? =
      if i = ch then k.channels[i]?.map (fun x => ⟨v, x.actual⟩) else k.channels[i]? := by
  rw [Block.storeTarget_channels, List.getElem?_modify]
  obtain rfl | hne := eq_or_ne i ch
  · simp only [if_true]
    rfl
  · simp only [if_neg hne, if_neg hne.symm, id_map']

/-- Settles O43: the state holds every channel of the instance, so the store never faults. -/
theorem rlsetStoresTheClampedTarget : Obligations.RlsetStoresTheClampedTarget := by
  refine ⟨fun w hcode => decode_of_opwCode hcode rfl ⟨rfl, rfl⟩, fun s ch val hlength hch => ?_,
    fun s ch val hch => exec_of_perform (Block.setTarget_of_le hch s.blk val.toInt)⟩
  have hheld : ch.toNat < s.blk.channels.length := hlength ▸ hch
  refine ⟨s.blk.targetValue val.toInt, (s.blk.storeTarget ch.toNat (s.blk.targetValue val.toInt)).channels, ?_,
    Block.targetValue_toNat s.blk val.toInt, Block.storeTarget_channels_getElem? ch.toNat _ s.blk⟩
  rw [← zext32_eq_ofNat]
  exact exec_of_perform (Block.setTarget_of_lt hch hheld val.toInt)

/-! `RLADV`: the move of one channel, then of all of them. -/

/-- A move never goes past the target, whatever the rates, so it never exceeds the larger of its two ends. -/
theorem advanceActual_le_max (r : Ramp) (target actual : Nat) :
    advanceActual r target actual ≤ max actual target := by
  unfold advanceActual
  split
  · omega
  · split <;> omega

/-- The 8 bits of `actual` hold the move without wrapping. -/
theorem advanceChannel_actual_toNat (r : Ramp) (x : Channel) :
    (advanceChannel r x).actual.toNat = advanceActual r x.target.toNat x.actual.toNat := by
  have hle := advanceActual_le_max r x.target.toNat x.actual.toNat
  rw [advanceChannel, BitVec.toNat_ofNat, Nat.mod_eq_of_lt (by omega)]

theorem Block.advance_channels_length {c : Config} {k : Block} (h : k.channels.length = c.nCh) :
    (k.advance c).channels.length = c.nCh := by
  rw [Block.advance_channels, List.length_zipWith, h]
  exact Nat.min_self _

theorem Block.advance_channels_getElem? {c : Config} {k : Block} {i : Nat} {x : Channel} {r : Ramp}
    (hx : k.channels[i]? = some x) (hr : c.ramps[i]? = some r) :
    (k.advance c).channels[i]? = some (advanceChannel r x) := by
  rw [Block.advance_channels, List.getElem?_zipWith, hr, hx]

theorem exec_rladv (s : State) : exec .rladv s = .next (s.after (s.blk.advance s.cfg) (Res.done 0)) :=
  exec_of_perform rfl

/-- Settles O44: each channel is moved by its own rates, and no move wraps. -/
theorem rladvMovesEveryChannel : Obligations.RladvMovesEveryChannel :=
  ⟨fun _ hcode => decode_of_opwCode hcode rfl trivial, fun s hlength =>
    ⟨(s.blk.advance s.cfg).channels, exec_rladv s, Block.advance_channels_length hlength, fun _ x r hx hr =>
      ⟨advanceChannel r x, Block.advance_channels_getElem? hx hr, rfl, advanceChannel_actual_toNat r x⟩⟩⟩

end Sys2Proof.Machine
end

section
/-! PROOFS. The system operations and the reserved codes (45_system.md R170, R172, R173). -/

namespace Sys2Proof.Machine

theorem exec_nop (s : State) : exec .nop s = .next (s.after s.blk (Res.done 0)) :=
  exec_of_perform rfl

/-- R173: the two reserved codes are refused alike, in every state. -/
theorem exec_of_reserved {i : Instr} (hi : i = .reservedD ∨ i = .reservedE) (s : State) :
    exec i s = .next (s.after s.blk (Res.refused .illegalOp)) := by
  obtain rfl | rfl := hi
  · exact exec_of_perform rfl
  · exact exec_of_perform rfl

/-- Settles O13: `NOP` has no operand, so its code alone selects it. -/
theorem nopChangesNothing : Obligations.NopChangesNothing :=
  ⟨fun _ hcode => decode_of_opwCode hcode rfl trivial, exec_nop⟩

/-- Settles O14: `SRESET` has no operand, and what it leaves does not depend on the block before it. -/
theorem sresetResetsTheBlock : Obligations.SresetResetsTheBlock :=
  ⟨fun _ hcode => decode_of_opwCode hcode rfl trivial, exec_sreset⟩

/-- Settles O15: each reserved code has a row of its own in the decoder, and both rows end in the one refusal. -/
theorem reservedCodesAreRefused : Obligations.ReservedCodesAreRefused :=
  ⟨fun _ hcode => decode_of_opwCode hcode rfl trivial, fun _ hcode => decode_of_opwCode hcode rfl trivial,
    fun s => ⟨exec_of_reserved (.inl rfl) s, exec_of_reserved (.inr rfl) s⟩⟩

end Sys2Proof.Machine
end

section
/-! PROOFS. The encoder against the decoder, and the packing of a result (30_encoding.md R76 to R78, R80 to R82). -/

namespace Sys2Proof

/-! Decoding an encoded operation. -/

/-- The encoder puts each operand into the field that the decoder reads it from. -/
theorem Instr.operandsIn_encode (i : Instr) : i.OperandsIn (encode i) := by
  cases i with
  | nop | rxpoll | rladv | estop | estopclr | reservedD | reservedE | sreset => trivial
  | rxfeed _ => exact opwByte_opwOf ..
  | txpwr _ _ | txenc _ _ => exact ⟨opwIdx_opwOf .., opwByte_opwOf ..⟩
  | txfrd _ | rxfrd _ | csrrd _ => exact opwIdx_opwOf ..
  | rlset _ _ => exact ⟨opwCh_opwOf .., opwVal_opwOf ..⟩
  | rlrd _ => exact opwCh_opwOf ..

theorem decode_encode (i : Instr) : decode (encode i) = .ok i := decode_eq_ok_iff.2 ⟨rfl, i.operandsIn_encode⟩

/-! Encoding a decoded operation: a mask that covers some fields and none of the others. -/

theorem and_opwOf (w : Word) (c ch : BitVec 4) (i : Byte) (v : BitVec 16) :
    w &&& opwOf c ch i v = opwOf (opwCode w &&& c) (opwCh w &&& ch) (opwIdx w &&& i) (opwVal w &&& v) := by
  rw [← opwOf_and, opwOf_fields]

/-- The mask of a byte operand keeps the low byte of `val` (R76). -/
theorem opwVal_and_byteMask (w : Word) : opwVal w &&& valOfByte (BitVec.allOnes 8) = valOfByte (opwByte w) := by
  have hsplit : opwVal w = w.extractLsb' 8 8 ++ opwByte w := by
    rw [opwByte, BitVec.extractLsb'_append_extractLsb'_eq_extractLsb' (show 8 = 0 + 8 from rfl)]
    rfl
  rw [hsplit, valOfByte, BitVec.and_append, BitVec.and_allOnes, valOfByte]
  simp only [BitVec.ofNat_eq_ofNat, BitVec.and_zero]

/-- A mask of the code and of operand fields, against the word that the encoder assembles, field by field. -/
theorem and_usedBits_eq_encode_of_fields {w : Word} {i : Instr} {c ch : BitVec 4} {x : Byte} {v : BitVec 16}
    (chMask : BitVec 4) (idxMask : Byte) (valMask : BitVec 16)
    (hmask : i.usedBits = opwOf (BitVec.allOnes 4) chMask idxMask valMask) (hencode : encode i = opwOf c ch x v)
    (hcode : opwCode w = opwCode (encode i)) (hch : opwCh w &&& chMask = ch) (hidx : opwIdx w &&& idxMask = x)
    (hval : opwVal w &&& valMask = v) : w &&& i.usedBits = encode i := by
  rw [hencode, opwCode_opwOf] at hcode
  rw [hmask, and_opwOf, BitVec.and_allOnes, hcode, hch, hidx, hval, hencode]

/-- The bits an operation uses are its code and whole operand fields. -/
theorem Instr.and_usedBits_eq_encode {w : Word} {i : Instr} (hcode : opwCode w = opwCode (encode i))
    (hi : i.OperandsIn w) : w &&& i.usedBits = encode i := by
  cases i with
  | nop | rxpoll | rladv | estop | estopclr | reservedD | reservedE | sreset =>
    exact and_usedBits_eq_encode_of_fields 0 0 0 (by rw [usedBits]; decide) rfl hcode BitVec.and_zero BitVec.and_zero
      BitVec.and_zero
  | rxfeed b =>
    exact and_usedBits_eq_encode_of_fields 0 0 (valOfByte (BitVec.allOnes 8)) (by rw [usedBits]; decide) rfl hcode
      BitVec.and_zero BitVec.and_zero ((opwVal_and_byteMask w).trans (congrArg valOfByte hi))
  | txpwr x b | txenc x b =>
    obtain ⟨hidx, hbyte⟩ := hi
    exact and_usedBits_eq_encode_of_fields 0 (BitVec.allOnes 8) (valOfByte (BitVec.allOnes 8))
      (by rw [usedBits]; decide) rfl hcode BitVec.and_zero (BitVec.and_allOnes.trans hidx)
      ((opwVal_and_byteMask w).trans (congrArg valOfByte hbyte))
  | txfrd x | rxfrd x | csrrd x =>
    exact and_usedBits_eq_encode_of_fields 0 (BitVec.allOnes 8) 0 (by rw [usedBits]; decide) rfl hcode BitVec.and_zero
      (BitVec.and_allOnes.trans hi) BitVec.and_zero
  | rlset ch v =>
    obtain ⟨hch, hval⟩ := hi
    exact and_usedBits_eq_encode_of_fields (BitVec.allOnes 4) 0 (BitVec.allOnes 16) (by rw [usedBits]; decide) rfl hcode
      (BitVec.and_allOnes.trans hch) BitVec.and_zero (BitVec.and_allOnes.trans hval)
  | rlrd ch =>
    exact and_usedBits_eq_encode_of_fields (BitVec.allOnes 4) 0 0 (by rw [usedBits]; decide) rfl hcode
      (BitVec.and_allOnes.trans hi) BitVec.and_zero BitVec.and_zero

/-- Settles O1: the encoder and the decoder use the same fields of the word, and an operation's mask covers exactly its
code and those fields. -/
theorem decodeAndEncodeAgree : Obligations.DecodeAndEncodeAgree := by
  refine ⟨decode_encode, fun w i hdecode => ?_⟩
  obtain ⟨hcode, hoperands⟩ := decode_eq_ok_iff.1 hdecode
  exact (Instr.and_usedBits_eq_encode hcode hoperands).symm

/-- Settles O4: each word is written out bit by bit, so the decoder is run on it. -/
theorem writtenWordsDecode : Obligations.WrittenWordsDecode := by
  unfold Obligations.WrittenWordsDecode
  decide

/-! The result record. -/

namespace Machine

/-- The fields of the packed record stand in disjoint ranges of bits (R80). -/
theorem packRes_toNat (r : Res) :
    (packRes r).toNat = r.data.toNat + 2 ^ 32 * (statusCode r.st).toNat + 2 ^ 36 * (reasonCode r.reason).toNat := by
  simp only [packRes, toNat_append_eq_add, BitVec.ofNat_eq_ofNat, BitVec.toNat_zero]
  omega

/-- Settles O5: the codes are the ones of R81 and R82, status by status and reason by reason. -/
theorem resultPacking : Obligations.ResultPacking := by
  intro r
  rw [packRes_toNat]
  refine congrArg₂ (· + ·) (congrArg (r.data.toNat + 2 ^ 32 * ·) ?_) (congrArg (2 ^ 36 * ·) ?_)
  · cases r.st <;> rfl
  · cases r.reason <;> rfl

end Machine

end Sys2Proof
end

section
/-! PROOFS. What an operation that answers did, said once: every rule about all operations goes through it
(45_system.md R174). -/

namespace Sys2Proof.Machine

/-- The reason an operation is refused for, where it can be refused (R79, R81, R82). -/
def refusalReason : Instr → Option Reason
  | .txpwr _ _ | .txfrd _ | .rxfrd _ | .csrrd _ => some .badIndex
  | .txenc _ _ => some .badLength
  | .rlset _ _ | .rlrd _ => some .badChannel
  | .reservedD | .reservedE => some .illegalOp
  | .nop | .rxfeed _ | .rxpoll | .rladv | .estop | .estopclr | .sreset => none

/-- The block and the result that an operation can lead to. -/
inductive Block.Effect (c : Config) (t : Time) (k : Block) : Instr → Block → Res → Prop where
  /-- A read, a `NOP`, or a poll in time (`INCOMPLETE` is another name of `DONE`). -/
  | kept (i : Instr) (d : Word) : Block.Effect c t k i k (Res.done d)
  | refused {i : Instr} {r : Reason} (hr : refusalReason i = some r) : Block.Effect c t k i k (Res.refused r)
  | fed {b : Byte} {k' : Block} {r : Res} (hfeed : k.feed c b t = .ok (k', r)) : Block.Effect c t k (.rxfeed b) k' r
  | polledLate : Block.Effect c t k .rxpoll (k.discardFrame .timeout) (Res.invalid .timeout)
  | staged {i : Byte} (hi : i.toNat < c.nMax) (b : Byte) : Block.Effect c t k (.txpwr i b) (k.stage i.toNat b)
      (Res.done 0)
  | encoded {l : Byte} (hl : l.toNat ≤ c.nMax) (x : Byte) : Block.Effect c t k (.txenc l x)
      (k.storeFrame (k.stagedFrame c l.toNat x)) (Res.done (BitVec.ofNat 32 (l.toNat + 5)))
  | targetStored (ch : BitVec 4) (v : BitVec 16) : Block.Effect c t k (.rlset ch v)
      (k.storeTarget ch.toNat (k.targetValue v.toInt)) (Res.done (zext32 (k.targetValue v.toInt)))
  | advanced : Block.Effect c t k .rladv (k.advance c) (Res.done 0)
  | stopped : Block.Effect c t k .estop k.emergencyStop (Res.done 0)
  | stopCleared : Block.Effect c t k .estopclr k.clearStop (Res.done 0)
  | reset : Block.Effect c t k .sreset (Block.reset c) (Res.done 0)

theorem Block.effect_of_perform {c : Config} {t : Time} {i : Instr} {k k' : Block} {r : Res}
    (h : k.perform c t i = .ok (k', r)) : Block.Effect c t k i k' r := by
  cases i <;> simp only [Block.perform, Except.ok.injEq] at h
  case nop => cases h; exact .kept _ _
  case rxfeed b => exact .fed h
  case rxpoll =>
    obtain ⟨-, hcase⟩ | ⟨-, hcase⟩ := Block.poll_cases c t k <;> cases hcase.symm.trans h
    · exact .polledLate
    · exact .kept _ _
  case txpwr x b =>
    obtain ⟨-, hcase⟩ | ⟨hi, hcase⟩ := Block.stagePayload_cases c x.toNat b k <;> cases hcase.symm.trans h
    · exact .refused rfl
    · exact .staged hi b
  case txenc l x =>
    obtain ⟨-, hcase⟩ | ⟨hl, hcase⟩ := Block.encodeStaged_cases c l.toNat x k <;> cases hcase.symm.trans h
    · exact .refused rfl
    · exact .encoded hl x
  case txfrd x =>
    obtain ⟨rfl, ⟨-, rfl⟩ | ⟨-, rfl⟩⟩ := Block.readTxFrame_cases h
    · exact .refused rfl
    · exact .kept _ _
  case rxfrd x =>
    obtain ⟨rfl, ⟨-, rfl⟩ | ⟨-, -, rfl⟩⟩ := Block.readRxPayload_cases h
    · exact .refused rfl
    · exact .kept _ _
  case csrrd x =>
    obtain ⟨_, -, hcase⟩ | ⟨-, hcase⟩ := Block.readStatus_cases c x.toNat k <;> cases hcase.symm.trans h
    · exact .kept _ _
    · exact .refused rfl
  case rlset ch v =>
    obtain ⟨-, rfl, rfl⟩ | ⟨-, -, rfl, rfl⟩ := Block.setTarget_cases h
    · exact .refused rfl
    · exact .targetStored ch v
  case rladv => cases h; exact .advanced
  case rlrd ch =>
    obtain ⟨rfl, ⟨-, rfl⟩ | ⟨-, _, -, rfl⟩⟩ := Block.readChannel_cases h
    · exact .refused rfl
    · exact .kept _ _
  case estop => cases h; exact .stopped
  case estopclr => cases h; exact .stopCleared
  case reservedD | reservedE => cases h; exact .refused rfl
  case sreset => cases h; exact .reset

/-- Everything an operation that answers can do to the state. -/
theorem effect_of_exec {i : Instr} {s t : State} (h : exec i s = .next t) :
    ∃ k r, Block.Effect s.cfg s.now s.blk i k r ∧ t = s.after k r := by
  obtain ⟨k, r, hperform, ht⟩ := exec_next_iff.1 h
  exact ⟨k, r, Block.effect_of_perform hperform, ht⟩

/-- The same where the result is named. -/
theorem effect_of_exec_of_results {i : Instr} {s t : State} {r : Res} (h : exec i s = .next t)
    (hresults : t.results = s.results ++ [r]) : Block.Effect s.cfg s.now s.blk i t.blk r := by
  obtain ⟨k, r', heffect, rfl⟩ := effect_of_exec h
  obtain rfl : r' = r := by simpa using hresults
  exact heffect

end Sys2Proof.Machine
end

section
/-! PROOFS. The port, and the invariant that every step keeps (00_scope.md R4, R6; 10_state.md R10 to R20). -/

namespace Sys2Proof.Machine

/-! One step. -/

/-- Everything a step that answers can do: nothing, the reset pin, or the operation that the word decodes to. -/
inductive StepCase (s : State) : State → Prop where
  | idle (hinputs : s.inputs = []) : StepCase s s
  | resetPin {rest : List PortEvent} (hinputs : s.inputs = .resetPin :: rest) :
      StepCase s ({ s with inputs := rest } : State).resetBlock
  | operation {w : Word} {now : Time} {rest : List PortEvent} {i : Instr} {t : State}
      (hinputs : s.inputs = .operation w now :: rest) (hdecode : decode w = .ok i)
      (hexec : exec i { s with inputs := rest, now := now } = .next t) : StepCase s t

theorem step_cases {s t : State} (h : step s = .next t) : StepCase s t := by
  match hinputs : s.inputs with
  | [] =>
    rw [step_idle hinputs] at h
    cases h
    exact .idle hinputs
  | .resetPin :: rest =>
    rw [step_resetPin hinputs] at h
    cases h
    exact .resetPin hinputs
  | .operation w now :: rest =>
    obtain ⟨i, hdecode⟩ := exists_decode_eq_ok w
    rw [step_of_decode hinputs hdecode] at h
    exact .operation hinputs hdecode h

/-- Settles O6: a 32-bit word put in front of the inputs is taken as it is, with the state's own `now`. -/
theorem stepPerformsPresentedOperation : Obligations.StepPerformsPresentedOperation := by
  refine ⟨fun s w t rest i hinputs hdecode => step_of_decode hinputs hdecode, fun s w i hdecode => ?_⟩
  have hword : BitVec.ofNat 32 (w % 2 ^ 32) = BitVec.ofNat 32 w := BitVec.eq_of_toNat_eq (by simp)
  have hinputs : (s.withFetchWord 32 w).inputs = .operation (BitVec.ofNat 32 w) s.now :: s.inputs := by
    rw [State.withFetchWord, hword, State.present_inputs]
  exact step_of_decode hinputs hdecode

/-- Settles O7: both events are read off the port. -/
theorem resetPinAndIdle : Obligations.ResetPinAndIdle := ⟨fun _ _ => step_resetPin, fun _ => step_idle⟩

/-- Settles O11: an operation writes the block and the results only, and the pin the block only. -/
theorem parametersNeverChange : Obligations.ParametersNeverChange := by
  intro s t hstep
  cases step_cases hstep with
  | idle => rfl
  | resetPin => rfl
  | operation _ _ hexec => exact (exec_cfg hexec :)

/-! The invariant, operation by operation: each leaves most of the fields it speaks of as they were. -/

theorem Block.inv_reset (c : Config) : (Block.reset c).Inv c where
  awaiting_iff := ⟨fun _ => rfl, fun _ => rfl⟩
  count_le := Nat.zero_le _
  start_first := nofun
  before_end := nofun
  rxf_len_le := Nat.zero_le _
  txf_len_range := .inl rfl
  txf_valid h := absurd rfl h
  rxbuf_fits := Memory.fits_nil _
  rxf_payload_fits := Memory.fits_nil _
  txp_fits := Memory.fits_nil _
  txf_fits := Memory.fits_nil _
  channel_count := List.length_replicate
  channel_range x hx := by
    obtain ⟨htarget, hactual⟩ := Block.mem_reset_channels hx
    rw [htarget, hactual]
    exact ⟨Nat.zero_le _, Nat.zero_le _⟩
  estop_safe := nofun

/-- Settles O10: nothing is in flight and nothing is stored after reset. -/
theorem resetMeetsInvariant : Obligations.ResetMeetsInvariant :=
  ⟨⟨by decide, Block.inv_reset _⟩, fun c hwf => ⟨hwf, Block.inv_reset c⟩⟩

/-! The parser. -/

theorem Block.Inv.stamp {c : Config} {k : Block} (h : k.Inv c) (t : Time) : (k.stamp t).Inv c := { h with }

theorem Block.Inv.countDiscard {c : Config} {k : Block} (h : k.Inv c) (r : Reason) : (k.countDiscard r).Inv c := by
  cases r <;> exact { h with }

theorem Block.Inv.parserReset {c : Config} {k : Block} (h : k.Inv c) : k.parserReset.Inv c :=
  { h with
    awaiting_iff := ⟨fun _ => rfl, fun _ => rfl⟩
    count_le := Nat.zero_le _
    start_first := nofun
    before_end := nofun }

theorem Block.Inv.discardFrame {c : Config} {k : Block} (h : k.Inv c) (r : Reason) : (k.discardFrame r).Inv c :=
  h.parserReset.countDiscard r

/-- R113: `START` is at offset 0, and a frame of one byte is far from its end. -/
theorem Block.Inv.openFrame {c : Config} {k : Block} (h : k.Inv c) : (k.openFrame c.start).Inv c :=
  { h with
    awaiting_iff := ⟨nofun, nofun⟩
    count_le := Nat.le_add_left 1 (c.nMax + 4)
    start_first := fun _ => by
      rw [Block.openFrame_rxbuf, Memory.read_write h.rxbuf_fits.canonical, if_pos rfl]
    before_end := fun _ (hthree : 3 ≤ 1) => absurd hthree (by decide)
    rxbuf_fits := h.rxbuf_fits.write (Nat.zero_lt_succ (c.nMax + 4)) c.start }

theorem Block.Inv.awaitByte {c : Config} {k : Block} (h : k.Inv c) (b : Byte) : (k.awaitByte c b).Inv c := by
  by_cases hb : b = c.start
  · rw [Block.awaitByte_of_eq hb, hb]
    exact h.openFrame
  · rwa [Block.awaitByte_of_ne hb]

/-- R12: InFrame, at least the start sentinel has been received. -/
theorem Block.Inv.rxCount_pos {c : Config} {k : Block} (h : k.Inv c) (hstate : k.rxState = .inFrame) :
    0 < k.rxCount.toNat := by
  refine Nat.pos_of_ne_zero fun hzero => ?_
  rw [h.awaiting_iff.2 (BitVec.eq_of_toNat_eq hzero)] at hstate
  cases hstate

/-- R6: `rx_count` counts every byte of `rxbuf` without wrapping. -/
theorem Block.received_rxCount_toNat {c : Config} (hwf : c.wf = true) {k : Block} (hroom : k.rxCount.toNat < c.maxFrame)
    (b : Byte) (t : Time) : (k.received b t).rxCount.toNat = k.rxCount.toNat + 1 := by
  have hmax := Config.maxFrame_le_of_wf hwf
  rw [Block.appendByte_rxCount, BitVec.toNat_ofNat, Nat.mod_eq_of_lt (by omega)]

/-- R112: a frame that has not reached its END offset with this byte still has it ahead. -/
theorem Block.Inv.received {c : Config} (hwf : c.wf = true) {k : Block} (h : k.Inv c) (hstate : k.rxState = .inFrame)
    (hroom : k.rxCount.toNat < c.maxFrame) {b : Byte} {t : Time}
    (hmore : (k.received b t).frameEnds (k.rxCount.toNat + 1) = false) : (k.received b t).Inv c := by
  have hcount := Block.received_rxCount_toNat hwf hroom b t
  have hpos := h.rxCount_pos hstate
  have hread := Block.read_received h.rxbuf_fits.canonical b t
  refine { h with
    awaiting_iff := ⟨fun hawaiting => ?_, fun hzero => ?_⟩
    count_le := by omega
    start_first := fun _ => by rw [hread, if_neg hpos.ne, h.start_first hstate]
    before_end := fun _ hthree => ?_
    rxbuf_fits := h.rxbuf_fits.write hroom b }
  · cases hstate.symm.trans hawaiting
  · rw [hzero] at hcount
    cases hcount
  · have hne : k.rxCount.toNat + 1 ≠ ((k.received b t).rxbuf.read 2).toNat + 5 := fun hends =>
      Bool.false_ne_true (hmore.symm.trans (Block.frameEnds_iff.2 ⟨by omega, hends⟩))
    by_cases htwo : k.rxCount.toNat = 2
    · omega
    · have hahead := h.before_end hstate (by omega)
      rw [hread 2, if_neg (Ne.symm htwo)] at hne ⊢
      omega

/-- A byte stored and the frame dropped: the byte is stale. -/
theorem Block.Inv.received_parserReset {c : Config} {k : Block} (h : k.Inv c) (hroom : k.rxCount.toNat < c.maxFrame)
    (b : Byte) (t : Time) : (k.received b t).parserReset.Inv c :=
  { h.parserReset with
    start_first := nofun
    before_end := nofun
    rxbuf_fits := h.rxbuf_fits.write hroom b }

/-- R16: LENGTH of a latched frame is within `rxf_payload`. -/
theorem Block.Inv.latchFrame {c : Config} {k : Block} (h : k.Inv c) (hlen : (k.rxbuf.read 2).toNat ≤ c.nMax) :
    k.latchFrame.Inv c :=
  { h with
    rxf_len_le := hlen
    rxf_payload_fits := h.rxf_payload_fits.writeList (by rwa [Memory.length_readRange, Nat.zero_add]) }

/-- R116: every byte, at every time, keeps the invariant. -/
theorem Block.Inv.feed {c : Config} (hwf : c.wf = true) {k k' : Block} (h : k.Inv c) {b : Byte} {t : Time} {r : Res}
    (hfeed : k.feed c b t = .ok (k', r)) : k'.Inv c := by
  cases Block.feed_cases hfeed with
  | late => exact ((h.discardFrame .timeout).stamp t).awaitByte b
  | await => exact (h.stamp t).awaitByte b
  | overflow => exact (h.stamp t).discardFrame .overflow
  | more _ hstate hroom hmore => exact h.received hwf hstate hroom hmore
  | finish _ _ hroom hends _ _ hfinish =>
    have hdropped := h.received_parserReset hroom b t
    obtain ⟨-, hcase⟩ | ⟨-, -, hcase⟩ | ⟨-, -, hcase⟩ :=
      Block.finishFrame_cases c b (k.rxCount.toNat + 1) (k.received b t) <;> cases hcase.symm.trans hfinish
    · exact hdropped.countDiscard .badEnd
    · exact hdropped.countDiscard .checksum
    · have hlength : k.rxCount.toNat + 1 = ((k.received b t).rxbuf.read 2).toNat + 5 := (Block.frameEnds_iff.1 hends).2
      have hfits : k.rxCount.toNat < c.nMax + 5 := hroom
      exact hdropped.latchFrame (show ((k.received b t).rxbuf.read 2).toNat ≤ c.nMax by omega)

/-! The encoder. -/

theorem Block.Inv.stage {c : Config} {k : Block} (h : k.Inv c) {i : Nat} (hi : i < c.nMax) (b : Byte) :
    (k.stage i b).Inv c :=
  { h with txp_fits := h.txp_fits.write hi b }

/-- R6: `txf_len` holds the length of every frame. -/
theorem Block.txfLen_storeFrame_toNat {c : Config} (hwf : c.wf = true) {len : Nat} (hlen : len ≤ c.nMax) (cmd : Byte)
    (k : Block) : (k.storeFrame (k.stagedFrame c len cmd)).txfLen.toNat = len + 5 := by
  obtain ⟨⟨-, hnMax⟩, -, -⟩ := Config.ranges_of_wf hwf
  rw [Block.storeFrame_txfLen, Block.length_stagedFrame, BitVec.toNat_ofNat, Nat.mod_eq_of_lt (by omega)]

/-- R102: what `TXENC` stores is a valid frame. -/
theorem Block.Inv.storeFrame {c : Config} (hwf : c.wf = true) {k : Block} (h : k.Inv c) {len : Nat}
    (hlen : len ≤ c.nMax) (cmd : Byte) : (k.storeFrame (k.stagedFrame c len cmd)).Inv c := by
  have hframe := Block.length_stagedFrame c len cmd k
  have htxfLen := Block.txfLen_storeFrame_toNat hwf hlen cmd k
  have hfits : len + 5 ≤ c.maxFrame := Nat.add_le_add_right hlen 5
  have hread : (k.txf.writeList 0 (k.stagedFrame c len cmd)).readRange 0 (len + 5) = k.stagedFrame c len cmd := by
    rw [← hframe, Memory.readRange_writeList h.txf_fits.canonical]
  refine { h with
    txf_len_range := .inr (by omega)
    txf_valid := fun _ => ?_
    txf_fits := h.txf_fits.writeList (by omega) }
  rw [htxfLen, Block.storeFrame_txf, hread]
  exact validFrame_encodeFrame hwf cmd (by rwa [Memory.length_readRange])

/-! The limiter. -/

theorem Block.targetValue_le (k : Block) (p : Int) : (k.targetValue p).toNat ≤ 100 := by
  have hvalue := k.targetValue_toNat p
  split at hvalue <;> omega

theorem Block.targetValue_of_estop {k : Block} (h : k.estop = true) (p : Int) : k.targetValue p = Config.safe :=
  if_pos h

/-- A channel after a store is one from before, with the stored target or with its own. -/
theorem Block.mem_storeTarget_channels {k : Block} {ch : Nat} {v : Byte} {x : Channel}
    (hx : x ∈ (k.storeTarget ch v).channels) : ∃ y ∈ k.channels, x = ⟨v, y.actual⟩ ∨ x = y := by
  obtain ⟨i, hi⟩ := List.mem_iff_getElem?.1 hx
  rw [Block.storeTarget_channels_getElem?] at hi
  split at hi
  · obtain ⟨y, hy, rfl⟩ := Option.map_eq_some_iff.1 hi
    exact ⟨y, List.mem_of_getElem? hy, .inl rfl⟩
  · exact ⟨x, List.mem_of_getElem? hi, .inr rfl⟩

theorem Block.Inv.storeTarget {c : Config} {k : Block} (h : k.Inv c) (ch : Nat) (p : Int) :
    (k.storeTarget ch (k.targetValue p)).Inv c := by
  refine { h with
    channel_count := (List.length_modify ..).trans h.channel_count
    channel_range := fun x hx => ?_
    estop_safe := fun hestop x hx => ?_ }
  · obtain ⟨y, hy, rfl | rfl⟩ := Block.mem_storeTarget_channels hx
    · exact ⟨k.targetValue_le p, (h.channel_range y hy).2⟩
    · exact h.channel_range x hy
  · obtain ⟨y, hy, rfl | rfl⟩ := Block.mem_storeTarget_channels hx
    · exact ⟨Block.targetValue_of_estop hestop p, (h.estop_safe hestop y hy).2⟩
    · exact h.estop_safe hestop x hy

theorem Block.mem_advance_channels {c : Config} {k : Block} {x : Channel} (hx : x ∈ (k.advance c).channels) :
    ∃ y ∈ k.channels, ∃ r ∈ c.ramps, x = advanceChannel r y := by
  rw [Block.advance_channels] at hx
  obtain ⟨i, hi⟩ := List.mem_iff_getElem?.1 hx
  obtain ⟨r, y, hr, hy, rfl⟩ := List.getElem?_zipWith_eq_some.1 hi
  exact ⟨y, List.mem_of_getElem? hy, r, List.mem_of_getElem? hr, rfl⟩

theorem advanceActual_self (r : Ramp) (a : Nat) : advanceActual r a a = a := by
  rw [advanceActual, if_neg (Nat.lt_irrefl a), if_neg (Nat.lt_irrefl a)]

/-- A channel at its target has nothing to move. -/
theorem advanceChannel_of_eq {x : Channel} (h : x.actual = x.target) (r : Ramp) : advanceChannel r x = x := by
  have hactual : (advanceChannel r x).actual = x.actual := BitVec.eq_of_toNat_eq (by
    rw [advanceChannel_actual_toNat, h, advanceActual_self])
  calc advanceChannel r x = ⟨x.target, (advanceChannel r x).actual⟩ := rfl
    _ = x := by rw [hactual]

theorem Block.Inv.advance {c : Config} {k : Block} (h : k.Inv c) : (k.advance c).Inv c := by
  refine { h with
    channel_count := Block.advance_channels_length h.channel_count
    channel_range := fun x hx => ?_
    estop_safe := fun hestop x hx => ?_ }
  · obtain ⟨y, hy, r, -, rfl⟩ := Block.mem_advance_channels hx
    obtain ⟨htarget, hactual⟩ := h.channel_range y hy
    have hmax := advanceActual_le_max r y.target.toNat y.actual.toNat
    refine ⟨htarget, ?_⟩
    rw [advanceChannel_actual_toNat]
    omega
  · obtain ⟨y, hy, r, -, rfl⟩ := Block.mem_advance_channels hx
    obtain ⟨htarget, hactual⟩ := h.estop_safe hestop y hy
    rw [advanceChannel_of_eq (hactual.trans htarget.symm)]
    exact ⟨htarget, hactual⟩

theorem Block.mem_emergencyStop_channels {k : Block} {x : Channel} (hx : x ∈ k.emergencyStop.channels) :
    x = ⟨Config.safe, Config.safe⟩ := by
  obtain ⟨_, -, rfl⟩ := List.mem_map.1 hx
  rfl

theorem Block.Inv.emergencyStop {c : Config} {k : Block} (h : k.Inv c) : k.emergencyStop.Inv c :=
  { h with
    channel_count := (List.length_map _).trans h.channel_count
    channel_range := fun x hx => by
      rw [Block.mem_emergencyStop_channels hx]
      decide
    estop_safe := fun _ x hx => by
      rw [Block.mem_emergencyStop_channels hx]
      exact ⟨rfl, rfl⟩ }

theorem Block.Inv.clearStop {c : Config} {k : Block} (h : k.Inv c) : k.clearStop.Inv c :=
  { h with estop_safe := nofun }

/-! Every operation, and every step. -/

theorem Block.Inv.perform {c : Config} (hwf : c.wf = true) {k k' : Block} (h : k.Inv c) {t : Time} {i : Instr} {r : Res}
    (hperform : k.perform c t i = .ok (k', r)) : k'.Inv c := by
  cases Block.effect_of_perform hperform with
  | kept | refused => exact h
  | fed hfeed => exact h.feed hwf hfeed
  | polledLate => exact h.discardFrame .timeout
  | staged hi b => exact h.stage hi b
  | encoded hl x => exact h.storeFrame hwf hl x
  | targetStored ch v => exact h.storeTarget ch.toNat v.toInt
  | advanced => exact h.advance
  | stopped => exact h.emergencyStop
  | stopCleared => exact h.clearStop
  | reset => exact Block.inv_reset c

theorem State.Inv.exec {i : Instr} {s t : State} (h : s.Inv) (hexec : Machine.exec i s = .next t) : t.Inv := by
  obtain ⟨k, r, hperform, rfl⟩ := exec_next_iff.1 hexec
  exact ⟨h.config, h.block.perform h.config hperform⟩

/-- The invariant is about the parameters and the block; what the port presents does not matter. -/
theorem State.Inv.of_taken {s : State} (h : s.Inv) (now : Time) (rest : List PortEvent) :
    State.Inv { s with inputs := rest, now := now } := ⟨h.config, h.block⟩

/-- Settles O9: reset establishes the invariant whatever the block held, and each operation keeps it. -/
theorem stepKeepsInvariant : Obligations.StepKeepsInvariant := by
  intro s t hinv hstep
  cases step_cases hstep with
  | idle => exact hinv
  | resetPin => exact ⟨hinv.config, Block.inv_reset s.cfg⟩
  | operation _ _ hexec => exact (hinv.of_taken ..).exec hexec

/-! No operation faults from a good state. -/

theorem Block.Inv.perform_answers {c : Config} {k : Block} (h : k.Inv c) (t : Time) (i : Instr) :
    ∃ k' r, k.perform c t i = .ok (k', r) := by
  cases i with
  | nop | rxpoll | txpwr | txenc | csrrd | rladv | estop | estopclr | reservedD | reservedE | sreset =>
    exact ⟨_, _, rfl⟩
  | rxfeed b =>
    obtain ⟨⟨k', r⟩, hfeed⟩ := Block.feed_answers (b := b) (t := t) h.count_le
    exact ⟨k', r, hfeed⟩
  | txfrd x =>
    obtain hx | hx := Nat.lt_or_ge x.toNat k.txfLen.toNat
    · exact ⟨_, _, Block.readTxFrame_of_lt hx h.txf_len_le⟩
    · exact ⟨_, _, Block.readTxFrame_of_le hx⟩
  | rxfrd x =>
    by_cases hx : k.rxfValid = false ∨ k.rxfLen.toNat ≤ x.toNat
    · exact ⟨_, _, Block.readRxPayload_of_invalid_or_le hx⟩
    · obtain ⟨hvalid, hlt⟩ := not_or.1 hx
      exact ⟨_, _, Block.readRxPayload_of_lt (Bool.eq_true_of_not_eq_false hvalid) (Nat.lt_of_not_le hlt) h.rxf_len_le⟩
  | rlset ch v =>
    obtain hch | hch := Nat.lt_or_ge ch.toNat c.nCh
    · exact ⟨_, _, Block.setTarget_of_lt hch (h.channel_count ▸ hch) v.toInt⟩
    · exact ⟨_, _, Block.setTarget_of_le hch k v.toInt⟩
  | rlrd ch =>
    obtain hch | hch := Nat.lt_or_ge ch.toNat c.nCh
    · exact ⟨_, _, Block.readChannel_of_lt hch (List.getElem?_eq_getElem (h.channel_count ▸ hch))⟩
    · exact ⟨_, _, Block.readChannel_of_le hch k⟩

theorem State.Inv.exec_answers {s : State} (h : s.Inv) (i : Instr) :
    ∃ k r, Machine.exec i s = .next (s.after k r) := by
  obtain ⟨k, r, hperform⟩ := h.block.perform_answers s.now i
  exact ⟨k, r, exec_of_perform hperform⟩

/-- Settles O8: each event at the port has its own answer, and only an operation's carries a result. -/
theorem stepAlwaysCompletes : Obligations.StepAlwaysCompletes := by
  intro s hinv
  match hinputs : s.inputs with
  | [] => exact ⟨s, step_idle hinputs, rfl⟩
  | .resetPin :: rest => exact ⟨_, step_resetPin hinputs, rfl, rfl⟩
  | .operation w now :: rest =>
    obtain ⟨i, hdecode⟩ := exists_decode_eq_ok w
    obtain ⟨k, r, hexec⟩ := (hinv.of_taken now rest).exec_answers i
    exact ⟨_, (step_of_decode hinputs hdecode).trans hexec, rfl, rfl, r, rfl⟩

end Sys2Proof.Machine
end

section
/-! PROOFS. The named digests have property P2 (40_checksum_digest.md R91, R93, R94). -/

namespace Sys2Proof.Machine

/-- Settles O20: each example is computed. -/
theorem digestExamples : Obligations.DigestExamples := by
  unfold Obligations.DigestExamples
  decide +kernel

/-! A digest that takes one byte at a time. -/

/-- The running value is not lost: a fold of a step that is injective in it is injective in it. -/
theorem foldl_injective {α β : Type} {f : α → β → α} (hf : ∀ b, Function.Injective (f · b)) (l : List β) :
    Function.Injective (l.foldl f) := by
  induction l with
  | nil => exact fun _ _ h => h
  | cons b l ih => exact fun _ _ h => hf b (ih h)

/-- If two different bytes also lead one running value to different ones, then one changed byte is seen at the end. -/
theorem foldl_append_cons_ne {α β : Type} {f : α → β → α} (hvalue : ∀ b, Function.Injective (f · b))
    (hbyte : ∀ a, Function.Injective (f a)) {x y : β} (hne : x ≠ y) (a : α) (front back : List β) :
    (front ++ x :: back).foldl f a ≠ (front ++ y :: back).foldl f a := by
  rw [List.foldl_append, List.foldl_append]
  exact fun h => hne (hbyte _ (foldl_injective hvalue back h))

/-! `CRC8_07`. -/

/-- The bit shifted out comes back as the lowest bit, since `0x07` has it and the shifted value has not (R93). -/
theorem crc8Shift_getLsbD_zero (c : Byte) : (crc8Shift c).getLsbD 0 = c.getLsbD 7 := by
  unfold crc8Shift
  split
  · rw [BitVec.getLsbD_xor, BitVec.getLsbD_shiftLeft]
    simp_all
  · rw [BitVec.getLsbD_shiftLeft]
    simp_all

/-- A shift left loses nothing but the highest bit. -/
theorem eq_of_shiftLeft_one_eq {c d : Byte} (hhigh : c.getLsbD 7 = d.getLsbD 7) (h : c <<< 1 = d <<< 1) : c = d := by
  refine BitVec.eq_of_getLsbD_eq fun i hi => ?_
  obtain rfl | hlt : i = 7 ∨ i < 7 := by omega
  · exact hhigh
  · have hbit := congrArg (BitVec.getLsbD · (i + 1)) h
    simpa [BitVec.getLsbD_shiftLeft, show i + 1 < 8 by omega, BitVec.getLsbD_eq_getElem hi] using hbit

theorem crc8Shift_injective : Function.Injective crc8Shift := by
  intro c d h
  have hhigh : c.getLsbD 7 = d.getLsbD 7 := by rw [← crc8Shift_getLsbD_zero, ← crc8Shift_getLsbD_zero, h]
  refine eq_of_shiftLeft_one_eq hhigh ?_
  unfold crc8Shift at h
  rw [hhigh] at h
  split at h
  · exact (BitVec.xor_left_inj _).1 h
  · exact h

theorem crc8Shift8_injective : Function.Injective crc8Shift8 := by
  have htwo := crc8Shift_injective.comp crc8Shift_injective
  have hfour := htwo.comp htwo
  exact hfour.comp hfour

theorem crc8From_eq_foldl (c : Byte) (s : List Byte) : crc8From c s = s.foldl (fun c b => crc8Shift8 (c ^^^ b)) c := by
  induction s generalizing c with
  | nil => rfl
  | cons b s ih => exact ih _

theorem xor_right_injective (c : Byte) : Function.Injective (c ^^^ ·) := fun _ _ h => (BitVec.xor_right_inj _).1 h

theorem xor_left_injective (b : Byte) : Function.Injective (· ^^^ b) := fun _ _ h => (BitVec.xor_left_inj _).1 h

/-- Settles O21: each named digest takes one byte at a time, and a step of it is injective in the running value and in
the byte. -/
theorem namedDigestsDetectOneChangedByte : Obligations.NamedDigestsDetectOneChangedByte := by
  intro c hdigest front back x y hne
  unfold digest
  obtain hsel | hsel | hsel := hdigest <;> rw [hsel]
  · rw [crc8, crc8, crc8From_eq_foldl, crc8From_eq_foldl]
    exact foldl_append_cons_ne (fun b => crc8Shift8_injective.comp (xor_left_injective b))
      (fun a => crc8Shift8_injective.comp (xor_right_injective a)) hne 0 front back
  · exact foldl_append_cons_ne xor_left_injective xor_right_injective hne 0 front back
  · exact foldl_append_cons_ne add_left_injective add_right_injective hne 0 front back

end Sys2Proof.Machine
end

section
/-! PROOFS. A valid frame is an encoding, the telemetry payloads, and `SEND` (30_encoding.md R67, R74, R75, R85). -/

namespace Sys2Proof.Machine

/-! Valid frames. -/

/-- A valid frame as its three leading bytes, its payload and its two trailing bytes (R60, R67). -/
theorem exists_parts_of_validFrame {c : Config} {f : List Byte} (h : validFrame c f) :
    ∃ (command len : Byte) (payload : List Byte), payload.length = len.toNat ∧ len.toNat ≤ c.nMax ∧
      f = c.start :: command :: len :: (payload ++ [digest c (command :: len :: payload), c.endByte]) := by
  obtain ⟨hfive, hstart, hfits, hlength, hend, hchecksum⟩ := h
  match f with
  | [] | [_] | [_, _] => simp at hfive
  | start :: command :: len :: rest =>
    change start = c.start at hstart
    change len.toNat ≤ c.nMax at hfits
    change rest.length + 3 = len.toNat + 5 at hlength
    have hrest : rest.length = len.toNat + 2 := by omega
    have htrailing : (rest.drop len.toNat).length = 2 := by rw [List.length_drop, hrest, Nat.add_sub_cancel_left]
    obtain ⟨checksum, final, htwo⟩ := List.length_eq_two.1 htrailing
    have hpayload : (rest.take len.toNat).length = len.toNat := by rw [List.length_take, hrest]; omega
    have hsplit : rest = rest.take len.toNat ++ [checksum, final] := by rw [← htwo, List.take_append_drop]
    refine ⟨command, len, rest.take len.toNat, hpayload, hfits, ?_⟩
    generalize rest.take len.toNat = payload at hpayload hsplit
    subst hsplit hstart
    have hfinal : final = c.endByte := by simpa using hend
    have hdigest : checksum = digest c (command :: len :: payload) := by simpa [← hpayload] using hchecksum
    rw [hfinal, hdigest]

/-- Settles O24: the parts of a valid frame are the ones that `encode` writes, LENGTH among them. -/
theorem validFramesAreEncodings : Obligations.ValidFramesAreEncodings := by
  intro c f hvalid
  obtain ⟨command, len, payload, hlength, hfits, rfl⟩ := exists_parts_of_validFrame hvalid
  have hlen : BitVec.ofNat 8 payload.length = len := by rw [hlength, BitVec.ofNat_toNat, BitVec.setWidth_eq]
  have hdecode : decodeFrame (c.start :: command :: len ::
      (payload ++ [digest c (command :: len :: payload), c.endByte])) = (command, payload) := by
    simp [decodeFrame, ← hlength]
  rw [hdecode]
  exact ⟨hlength ▸ hfits, by rw [encodeFrame_eq_cons, hlen]⟩

/-! Telemetry payloads. -/

/-- The least significant byte comes first (R42). -/
theorem exists_littleEndian32 (w : Word) :
    ∃ b0 b1 b2 b3 : Byte, littleEndian32 w = [b0, b1, b2, b3] ∧ fromLittleEndian32 b0 b1 b2 b3 = w ∧
      w.toNat = b0.toNat + 256 * b1.toNat + 65536 * b2.toNat + 16777216 * b3.toNat := by
  have hword : fromLittleEndian32 (w.extractLsb' 0 8) (w.extractLsb' 8 8) (w.extractLsb' 16 8) (w.extractLsb' 24 8) =
      w := by
    unfold fromLittleEndian32
    rw [BitVec.extractLsb'_append_extractLsb'_eq_extractLsb' (show 24 = 16 + 8 from rfl),
      BitVec.extractLsb'_append_extractLsb'_eq_extractLsb' (show 16 = 8 + 8 from rfl),
      BitVec.extractLsb'_append_extractLsb'_eq_extractLsb' (show 8 = 0 + 8 from rfl)]
    exact BitVec.extractLsb'_eq_self
  refine ⟨_, _, _, _, rfl, hword, ?_⟩
  conv_lhs => rw [← hword]
  simp only [fromLittleEndian32, toNat_append_eq_add]
  omega

theorem readUpdateRequest_updateRequestPayload (q : UpdateRequest) :
    readUpdateRequest (updateRequestPayload q) = some q := by
  obtain ⟨b0, b1, b2, b3, hbytes, hword, -⟩ := exists_littleEndian32 q.quantity
  rw [updateRequestPayload, hbytes]
  exact congrArg (fun w => some (UpdateRequest.mk w q.status1 q.status2 q.status3)) hword

/-- A payload of the wrong length is no request (R74, R190). -/
theorem readUpdateRequest_of_length_ne {p : List Byte} (h : p.length ≠ 7) : readUpdateRequest p = none := by
  unfold readUpdateRequest
  split
  · exact absurd rfl h
  · rfl

/-- Settles O25: both payloads put a little-endian word in front of single bytes. -/
theorem telemetryPayloadLayout : Obligations.TelemetryPayloadLayout := by
  refine ⟨fun q => ?_, fun q => ⟨rfl, readUpdateRequest_updateRequestPayload q⟩,
    fun p => readUpdateRequest_of_length_ne, fun d sv q => ?_⟩
  · obtain ⟨b0, b1, b2, b3, hbytes, -, hvalue⟩ := exists_littleEndian32 q.quantity
    exact ⟨b0, b1, b2, b3, by rw [updateRequestPayload, hbytes]; rfl, hvalue⟩
  · obtain ⟨b0, b1, b2, b3, hbytes, -, hvalue⟩ := exists_littleEndian32 d
    exact ⟨b0, b1, b2, b3, by rw [updateAckPayload, hbytes]; rfl, hvalue⟩

/-! `SEND`. -/

/-- A step that takes an encoded operation from the port performs it. -/
theorem step_of_encode {s : State} {i : Instr} {now : Time} {rest : List PortEvent}
    (h : s.inputs = .operation (encode i) now :: rest) : step s = exec i { s with inputs := rest, now := now } :=
  step_of_decode h (decode_encode i)

/-- The block with `ps` staged from index `i` on. -/
def Block.stageAll (i : Nat) (ps : List Byte) (k : Block) : Block := { k with txp := k.txp.writeList i ps }

/-- The staging lines of `SEND`, one step each. -/
theorem run_stageLines {s : State} (hinv : s.Inv) {i : Nat} {ps : List Byte} {ls : List TraceLine} {now : Time}
    (hfits : i + ps.length ≤ s.cfg.nMax) (hinputs : s.inputs = traceEvents now (stageLines i ps ++ ls)) :
    ∃ t : State, t.Inv ∧ t.cfg = s.cfg ∧ t.inputs = traceEvents now ls ∧ t.blk = s.blk.stageAll i ps ∧
      ∀ n, Host.Core.run core (ps.length + n) s = Host.Core.run core n t := by
  induction ps generalizing s i with
  | nil => exact ⟨s, hinv, rfl, hinputs, rfl, fun n => by rw [List.length_nil, Nat.zero_add]⟩
  | cons p ps ih =>
    rw [List.length_cons] at hfits
    obtain ⟨⟨-, hnMax⟩, -, -⟩ := Config.ranges_of_wf hinv.config
    have hidx : (BitVec.ofNat 8 i).toNat = i := by rw [BitVec.toNat_ofNat, Nat.mod_eq_of_lt (by omega)]
    have hlt : (BitVec.ofNat 8 i).toNat < s.cfg.nMax := by omega
    have hstep := (step_of_encode hinputs).trans (exec_txpwr_of_lt
      (s := { s with inputs := traceEvents now (stageLines (i + 1) ps ++ ls), now := now }) hlt p)
    rw [hidx] at hstep
    obtain ⟨t, htinv, hcfg, htinputs, hblk, hrun⟩ := ih (stepKeepsInvariant _ _ hinv hstep) (i := i + 1)
      (show i + 1 + ps.length ≤ s.cfg.nMax by omega) rfl
    refine ⟨t, htinv, hcfg, htinputs, hblk, fun n => ?_⟩
    rw [List.length_cons, Nat.add_right_comm, run_succ_of_step (M := core) hstep, hrun]

/-- Settles O27: staging leaves the payload in `txp`, and `TXENC` encodes what it finds there. -/
theorem sendEncodesThePayload : Obligations.SendEncodesThePayload := by
  intro s cmd payload hinv hlen hinputs
  obtain ⟨u, huinv, hcfg, huinputs, hblk, hrun⟩ := run_stageLines hinv (by rwa [Nat.zero_add]) hinputs
  have hlength := lengthByte_toNat hinv.config hlen
  have hstaged : u.blk.txp.readRange 0 payload.length = payload := by
    rw [hblk]
    exact Memory.readRange_writeList hinv.block.txp_fits.canonical 0 payload
  obtain ⟨m, n, hexec, hn, hread, -⟩ := txencEncodesTheStagedPayload.2.1 _ (BitVec.ofNat 8 payload.length) cmd
    (huinv.of_taken 0 []) (by rw [hlength]; exact hcfg ▸ hlen)
  rw [hlength] at hn hread
  rw [hstaged, hcfg] at hread
  have hlast := (step_of_encode huinputs).trans hexec
  exact ⟨_, (hrun 1).trans (run_succ_of_step (M := core) hlast 0), hn, hread⟩

end Sys2Proof.Machine
end

section
/-! PROOFS. The rows of the transition table, one by one (42_rx_parser.md R110 to R122). -/

namespace Sys2Proof.Machine

/-! What `feed` answers in the rows that end a frame. -/

/-- T5: a byte in time that finds `rxbuf` full. -/
theorem Block.feed_of_full {c : Config} {k : Block} {t : Time} (hstate : k.rxState = .inFrame)
    (htime : (t - k.rxLast).toNat ≤ c.tTimeout) (hfull : k.rxCount.toNat = c.maxFrame) (b : Byte) :
    k.feed c b t = .ok ((k.stamp t).discardFrame .overflow, Res.invalid .overflow) := by
  have hlate : k.timedOut c t = false := Block.timedOut_eq_false_iff.2 (.inr htime)
  simp [Block.feed, hlate, hstate, Block.accumulate, hfull, Block.discardWith]

/-- R115(a): END is looked at before CHECKSUM. -/
theorem Block.finishFrame_of_ne {c : Config} {b : Byte} (h : b ≠ c.endByte) (n : Nat) (k : Block) :
    k.finishFrame c b n = (k.discardFrame .badEnd, Res.invalid .badEnd) := if_pos h

/-- R115(b). -/
theorem Block.finishFrame_of_digest_ne {c : Config} {n : Nat} {k : Block}
    (h : digest c (k.rxbuf.readRange 1 (n - 3)) ≠ k.rxbuf.read (n - 2)) :
    k.finishFrame c c.endByte n = (k.discardFrame .checksum, Res.invalid .checksum) := by
  obtain ⟨hend, -⟩ | ⟨-, -, hchecksum⟩ | ⟨-, hdigest, -⟩ := Block.finishFrame_cases c c.endByte n k
  · exact absurd rfl hend
  · exact hchecksum
  · exact absurd hdigest h

/-- Storing a byte behind offset 2 leaves LENGTH, so it is known before the byte arrives whether it ends the frame. -/
theorem Block.frameEnds_received_iff {k : Block} (hcanonical : k.rxbuf.wf = true) (b : Byte) (t : Time) :
    (k.received b t).frameEnds (k.rxCount.toNat + 1) = true ↔
      4 ≤ k.rxCount.toNat ∧ k.rxCount.toNat + 1 = (k.rxbuf.read 2).toNat + 5 := by
  have hlength (hthree : 3 ≤ k.rxCount.toNat) : (k.received b t).rxbuf.read 2 = k.rxbuf.read 2 :=
    Block.read_received_of_lt hcanonical b t 2 hthree
  rw [Block.frameEnds_iff]
  constructor
  · rintro ⟨-, hends⟩
    rw [hlength (by omega)] at hends
    omega
  · rintro ⟨hfour, hends⟩
    rw [hlength (by omega)]
    omega

/-- T7 to T9: a byte in time at the expected END offset. -/
theorem Block.feed_of_ends {c : Config} {k : Block} {t : Time} (hcanonical : k.rxbuf.wf = true)
    (hstate : k.rxState = .inFrame) (htime : (t - k.rxLast).toNat ≤ c.tTimeout) (hroom : k.rxCount.toNat < c.maxFrame)
    (hfour : 4 ≤ k.rxCount.toNat) (hends : k.rxCount.toNat + 1 = (k.rxbuf.read 2).toNat + 5) (b : Byte) :
    k.feed c b t = .ok ((k.received b t).finishFrame c b (k.rxCount.toNat + 1)) := by
  rw [Block.feed_of_inFrame hstate htime hroom, Block.endOrGoOn,
    if_pos ((Block.frameEnds_received_iff hcanonical b t).2 ⟨hfour, hends⟩)]

/-- A discard for a framing error other than the timeout counts as the timeout does (R15, R181). -/
theorem Block.discardFrame_framing {r : Reason} (hr : r = .overflow ∨ r = .badEnd) (k : Block) :
    k.discardFrame r = k.discardFrame .timeout := by
  obtain rfl | rfl := hr <;> rfl

/-- A checksum discard, with the counter as a number. -/
theorem Block.discardFrame_checksum (k : Block) :
    k.discardFrame .checksum =
      { k with
        rxState := .awaitingStart, rxCount := 0,
        cntChecksum := BitVec.ofNat 16 (min 0xFFFF (k.cntChecksum.toNat + 1)) } := by
  rw [← satInc_eq_ofNat]
  rfl

/-- Settles O29: the discard comes first, and the late byte is then taken in AwaitingStart. -/
theorem rxfeedAfterTimeout : Obligations.RxfeedAfterTimeout := by
  refine ⟨fun s b hstate hlate hb => ?_, fun s hstate hlate hcanonical => ?_⟩
  · rw [exec_rxfeed_of_feed (Block.feed_of_timedOut (Block.timedOut_iff.2 ⟨hstate, hlate⟩) b),
      Block.awaitByte_of_ne hb, Block.discardFrame_timeout]
    rfl
  · refine ⟨s.blk.rxbuf.write 0 s.cfg.start, ?_, Memory.read_write hcanonical 0 s.cfg.start⟩
    rw [exec_rxfeed_of_feed (Block.feed_of_timedOut (Block.timedOut_iff.2 ⟨hstate, hlate⟩) _),
      Block.awaitByte_of_eq rfl, Block.discardFrame_timeout]
    rfl

/-- Settles O30: `MAX_FRAME` bytes are in `rxbuf`, so the byte is not even stored. -/
theorem rxfeedOverflow : Obligations.RxfeedOverflow := by
  intro s b hstate htime hfull
  rw [exec_rxfeed_of_feed (Block.feed_of_full hstate htime hfull b), Block.discardFrame_framing (.inl rfl),
    Block.discardFrame_timeout]
  rfl

/-- Settles O31: the premise says that the frame does not end, whatever the byte stored at offset 2. -/
theorem rxfeedAccumulates : Obligations.RxfeedAccumulates := by
  intro s b hinv hstate htime hroom hmore
  have hcanonical := hinv.block.rxbuf_fits.canonical
  have hgoesOn : ¬ (s.blk.received b s.now).frameEnds (s.blk.rxCount.toNat + 1) = true := fun hends => by
    obtain ⟨hfour, hlength⟩ := (Block.frameEnds_received_iff hcanonical b s.now).1 hends
    exact hmore hfour hlength
  refine ⟨(s.blk.received b s.now).rxbuf, (s.blk.received b s.now).rxCount, ?_,
    Block.received_rxCount_toNat hinv.config hroom b s.now, Block.read_received hcanonical b s.now⟩
  refine exec_rxfeed_of_feed ((Block.feed_of_inFrame hstate htime hroom b).trans ?_)
  rw [Block.endOrGoOn, if_neg hgoesOn]
  rfl

/-- Settles O32: a byte other than `END` decides before the digest is compared. -/
theorem rxfeedBadEnd : Obligations.RxfeedBadEnd := by
  intro s b hinv hstate htime hroom hfour hends hb
  have hcanonical := hinv.block.rxbuf_fits.canonical
  refine ⟨(s.blk.received b s.now).rxbuf, ?_, Block.read_received hcanonical b s.now⟩
  have hfeed := Block.feed_of_ends hcanonical hstate htime hroom hfour hends b
  rw [Block.finishFrame_of_ne hb] at hfeed
  rw [exec_rxfeed_of_feed hfeed, Block.discardFrame_framing (.inr rfl), Block.discardFrame_timeout]
  rfl

/-- Settles O33: storing `END` changes neither the digested bytes nor the CHECKSUM byte. -/
theorem rxfeedBadChecksum : Obligations.RxfeedBadChecksum := by
  intro s hinv hstate htime hroom hfour hends hdigest
  have hcanonical := hinv.block.rxbuf_fits.canonical
  have hbefore := Block.read_received_of_lt hcanonical s.cfg.endByte s.now
  have hdigested : (s.blk.received s.cfg.endByte s.now).rxbuf.readRange 1 (s.blk.rxCount.toNat - 2) =
      s.blk.rxbuf.readRange 1 (s.blk.rxCount.toNat - 2) :=
    Memory.readRange_congr fun i hi => hbefore _ (by omega)
  rw [← hdigested, ← hbefore _ (by omega)] at hdigest
  refine ⟨(s.blk.received s.cfg.endByte s.now).rxbuf, ?_, Block.read_received hcanonical _ s.now⟩
  have hfeed := Block.feed_of_ends hcanonical hstate htime hroom hfour hends s.cfg.endByte
  rw [Block.finishFrame_of_digest_ne hdigest] at hfeed
  rw [exec_rxfeed_of_feed hfeed, Block.discardFrame_checksum]
  rfl

/-! All rows at once. -/

/-- The block and the result that a byte can lead to, row by row of the transition table (R122). The conditions of the
rows are in `FeedCase`. -/
inductive Block.Transition (c : Config) (b : Byte) (t : Time) (k : Block) : Block → Res → Prop where
  /-- T1. -/
  | ignored : Block.Transition c b t k (k.stamp t) Res.incomplete
  /-- T2. -/
  | opened : Block.Transition c b t k ((k.stamp t).openFrame b) Res.incomplete
  /-- T3. -/
  | lateIgnored : Block.Transition c b t k ((k.discardFrame .timeout).stamp t) (Res.invalid .timeout)
  /-- T4. -/
  | lateOpened : Block.Transition c b t k (((k.discardFrame .timeout).stamp t).openFrame b) (Res.invalid .timeout)
  /-- T5. -/
  | overflow : Block.Transition c b t k ((k.stamp t).discardFrame .overflow) (Res.invalid .overflow)
  /-- T6. -/
  | more : Block.Transition c b t k (k.received b t) Res.incomplete
  /-- T7. -/
  | badEnd : Block.Transition c b t k ((k.received b t).discardFrame .badEnd) (Res.invalid .badEnd)
  /-- T8. -/
  | badChecksum : Block.Transition c b t k ((k.received b t).discardFrame .checksum) (Res.invalid .checksum)
  /-- T9. -/
  | completed : Block.Transition c b t k (k.received b t).latchFrame.parserReset
      (Res.complete (packBytes ((k.received b t).rxbuf.read 1) ((k.received b t).rxbuf.read 2)))

theorem Block.transition_of_feed {c : Config} {b : Byte} {t : Time} {k k' : Block} {r : Res}
    (h : k.feed c b t = .ok (k', r)) : Block.Transition c b t k k' r := by
  cases Block.feed_cases h with
  | late =>
    by_cases hb : b = c.start
    · rw [Block.awaitByte_of_eq hb]
      exact .lateOpened
    · rw [Block.awaitByte_of_ne hb]
      exact .lateIgnored
  | await =>
    by_cases hb : b = c.start
    · rw [Block.awaitByte_of_eq hb]
      exact .opened
    · rw [Block.awaitByte_of_ne hb]
      exact .ignored
  | overflow => exact .overflow
  | more => exact .more
  | finish _ _ _ _ _ _ hfinish =>
    obtain ⟨-, hcase⟩ | ⟨-, -, hcase⟩ | ⟨-, -, hcase⟩ :=
      Block.finishFrame_cases c b (k.rxCount.toNat + 1) (k.received b t) <;> cases hcase.symm.trans hfinish
    · exact .badEnd
    · exact .badChecksum
    · exact .completed

/-- The four parts of the latch (R16). -/
def Block.latch (k : Block) : Bool × Byte × Byte × Memory := (k.rxfValid, k.rxfCmd, k.rxfLen, k.rxfPayload)

theorem Block.latch_eq_iff {k k' : Block} :
    k'.latch = k.latch ↔ k'.rxfValid = k.rxfValid ∧ k'.rxfCmd = k.rxfCmd ∧ k'.rxfLen = k.rxfLen ∧
      k'.rxfPayload = k.rxfPayload := by
  simp only [Block.latch, Prod.mk.injEq]

@[simp] theorem Block.latch_discardFrame (r : Reason) (k : Block) : (k.discardFrame r).latch = k.latch := by
  cases r <;> rfl

namespace Block.Transition

variable {c : Config} {b : Byte} {t : Time} {k k' : Block} {r : Res}

theorem rxLast (h : Block.Transition c b t k k' r) : k'.rxLast = t := by
  cases h <;> simp

/-- No byte reaches the encoder or the limiter (R119). -/
theorem frame (h : Block.Transition c b t k k' r) :
    k'.txp = k.txp ∧ k'.txf = k.txf ∧ k'.txfLen = k.txfLen ∧ k'.channels = k.channels ∧ k'.estop = k.estop := by
  cases h <;> simp

/-- R16: a byte that writes the latch completed a frame. -/
theorem latch_eq (h : Block.Transition c b t k k' r) (hr : r.st ≠ .complete) : k'.latch = k.latch := by
  cases h with
  | completed => exact absurd rfl hr
  | lateOpened => exact Block.latch_discardFrame .timeout k
  | lateIgnored | overflow | badEnd | badChecksum => exact Block.latch_discardFrame _ _
  | ignored | opened | more => rfl

theorem result_cases (h : Block.Transition c b t k k' r) :
    r = Res.incomplete ∨ r = Res.complete (packBytes k'.rxfCmd k'.rxfLen) ∨ r = Res.invalid .timeout ∨
      r = Res.invalid .overflow ∨ r = Res.invalid .badEnd ∨ r = Res.invalid .checksum := by
  cases h <;> simp

end Block.Transition

/-- Settles O36: the invariant makes `feed` answer, and the answer is a row of the table. -/
theorem rxfeedAcceptsEveryByte : Obligations.RxfeedAcceptsEveryByte := by
  refine ⟨fun w hcode => decode_of_opwCode hcode rfl rfl, fun s b hinv => ?_⟩
  obtain ⟨⟨k, r⟩, hfeed⟩ := Block.feed_answers (b := b) (t := s.now) hinv.block.count_le
  have hrow := Block.transition_of_feed hfeed
  obtain ⟨htxp, htxf, htxfLen, hchannels, hestop⟩ := hrow.frame
  refine ⟨k, r, exec_rxfeed_of_feed hfeed, hrow.result_cases.imp_right (Or.imp_left ?_), hrow.rxLast, htxp, htxf,
    htxfLen, hchannels, hestop, fun hr => Block.latch_eq_iff.1 (hrow.latch_eq hr)⟩
  rintro rfl
  exact ⟨rfl, rfl, packBytes_toNat ..⟩

end Sys2Proof.Machine
end

section
/-! PROOFS. Streams that lead to no frame: a changed byte, garbage, and a timeout with a poll in between
(42_rx_parser.md R120, R125, R126). -/

namespace Sys2Proof.Machine

/-! A changed byte. -/

theorem Block.latch_eq_of_outsideParser_eq {k k' : Block} (h : k'.outsideParser = k.outsideParser) :
    k'.latch = k.latch := (congrArg Block.latch h :)

theorem Block.verdict_of_end_ne {c : Config} {f : List Byte} {k : Block}
    (hne : f.getD (f.length - 1) 0 ≠ c.endByte) :
    k.verdict c f = (k.discardFrame .badEnd, Res.invalid .badEnd) := Block.finishFrame_of_ne hne f.length k

/-- The reason for which a frame of `n` bytes with its byte at `i` changed is discarded (R126). -/
def changedByteReason (n i : Nat) : Reason := if i + 1 = n then .badEnd else .checksum

/-- R126: what a parser that holds a valid frame with one changed byte makes of it. -/
theorem Block.Holds.verdict_of_changedByte {c : Config} (hc : c.Legal) {f : List Byte} (hf : validFrame c f) {i : Nat}
    {b : Byte} (hi : i = 1 ∨ 3 ≤ i) (hlt : i < f.length) (hne : f[i]? ≠ some b) {k : Block} (h : k.Holds (f.set i b)) :
    k.verdict c (f.set i b) =
      (k.discardFrame (changedByteReason f.length i), Res.invalid (changedByteReason f.length i)) := by
  obtain ⟨hshape, hend, -⟩ := validFrame_iff.1 hf
  unfold changedByteReason
  split
  case isTrue hlast =>
    have hnew : (f.set i b).getD ((f.set i b).length - 1) 0 = b := by
      rw [List.length_set, show f.length - 1 = i by omega, List.getD_eq_getElem?_getD, List.getElem?_set_self hlt,
        Option.getD_some]
    have hold : f[i]? = some c.endByte := by
      rw [← hend, show f.length - 1 = i by omega, List.getD_eq_getElem?_getD, List.getElem?_eq_getElem hlt,
        Option.getD_some]
    refine Block.verdict_of_end_ne ?_
    rw [hnew]
    rintro rfl
    exact hne hold
  case isFalse hlast =>
    refine h.verdict_of_checksum_ne (hshape.set hi b) ?_ ?_
    · rw [List.length_set, getD_set_of_ne (by omega), hend]
    · rw [List.length_set]
      exact checksum_ne_of_set hc.sensitive hf hi (by omega) hne

/-- Settles O39: the outline of the frame is as it was, so the parser comes to hold all of it, and END or the digest
shows the change. -/
theorem oneChangedByteIsDetected : Obligations.OneChangedByteIsDetected := by
  intro s f i b bs hinv hlegal hstate hf hi hlt hne hbytes hpaced hinputs
  have hshape := (validFrame_iff.1 hf).1.set hi b
  have hlength : bs.length = f.length := by rw [← List.length_set (as := f), ← hbytes, List.length_map]
  obtain ⟨k, hholds, hsame, hfeeds⟩ := Block.feeds_frame hinv.config hstate hinv.block.rxbuf_fits.canonical
    (hbytes ▸ hshape) hpaced
  rw [hbytes] at hholds hfeeds
  rw [hholds.verdict_of_changedByte hlegal hf hi hlt hne, hlength] at hfeeds
  obtain ⟨t, hrun, hblk, hresults⟩ := hfeeds.run hinputs
  have hlatch : t.blk.latch = s.blk.latch := by
    rw [hblk, Block.latch_discardFrame, Block.latch_eq_of_outsideParser_eq hsame]
  refine ⟨t, hrun, ?_, by rw [hblk, Block.discardFrame_rxState], Block.latch_eq_iff.1 hlatch⟩
  rw [hresults, ← List.append_assoc]
  rfl

/-! Garbage. -/

/-- What bytes that are all ignored leave of the block: the stamp of the last one. -/
def Block.stampLast (bs : List (Byte × Time)) (k : Block) : Block :=
  { k with rxLast := (bs.getLast?.map Prod.snd).getD k.rxLast }

theorem Block.stampLast_cons (p : Byte × Time) (bs : List (Byte × Time)) (k : Block) :
    k.stampLast (p :: bs) = (k.stamp p.2).stampLast bs := by
  unfold Block.stampLast
  rw [List.getLast?_cons]
  cases bs.getLast? <;> rfl

/-- R113: in AwaitingStart every byte but `START` is ignored, at whatever time. -/
theorem Block.feeds_garbage {c : Config} {k : Block} (hstate : k.rxState = .awaitingStart) {bs : List (Byte × Time)}
    (hbs : ∀ p ∈ bs, p.1 ≠ c.start) :
    Block.Feeds c k bs (k.stampLast bs) (List.replicate bs.length Res.incomplete) := by
  induction bs generalizing k with
  | nil => exact .nil k
  | cons p bs ih =>
    obtain ⟨hp, hrest⟩ := List.forall_mem_cons.1 hbs
    have hfeed := Block.feed_of_awaitingStart (c := c) hstate p.1 p.2
    rw [Block.awaitByte_of_ne hp] at hfeed
    rw [Block.stampLast_cons]
    exact .cons hfeed (ih hstate hrest)

/-- Settles O41: no byte opens a frame, so each finds the parser in AwaitingStart again. -/
theorem garbageWithoutStartIsDiscarded : Obligations.GarbageWithoutStartIsDiscarded := by
  intro s bs hstate hbs hinputs
  obtain ⟨t, hrun, hblk, hresults⟩ := (Block.feeds_garbage hstate hbs).run hinputs
  exact ⟨t, hrun, hresults, hblk⟩

/-! A poll before a late byte. -/

theorem exec_rxpoll_of_timedOut {s : State} (h : s.blk.timedOut s.cfg s.now = true) :
    exec .rxpoll s = .next (s.after (s.blk.discardFrame .timeout) (Res.invalid .timeout)) :=
  exec_rxpoll_of_poll (if_pos h)

/-- As long as the clock does not wrap, what is late stays late (R118). -/
theorem toNat_sub_le_of_add_lt {t0 t1 t2 : Time} (h : (t1 - t0).toNat + (t2 - t1).toNat < 2 ^ 32) :
    (t1 - t0).toNat ≤ (t2 - t0).toNat := by
  bv_omega

/-- Settles O42: the poll does what the byte itself would have done first, and the byte then finds AwaitingStart. -/
theorem pollingDoesNotChangeDecoding : Obligations.PollingDoesNotChangeDecoding := by
  intro s t1 t2 b u v hstate hlate hnowrap hpoll hfeed
  have hlate2 : s.cfg.tTimeout < (t2 - s.blk.rxLast).toNat := hlate.trans_le (toNat_sub_le_of_add_lt hnowrap)
  have hdiscard := exec_rxpoll_of_timedOut (s := { s with now := t1 }) (Block.timedOut_iff.2 ⟨hstate, hlate⟩)
  cases hdiscard.symm.trans hpoll
  have hawait := exec_rxfeed_of_feed
    (s := { s.after (s.blk.discardFrame .timeout) (Res.invalid .timeout) with now := t2 })
    (Block.feed_of_awaitingStart (Block.discardFrame_rxState ..) b t2)
  cases hawait.symm.trans hfeed
  refine ⟨_, exec_rxfeed_of_feed (s := { s with now := t2 })
    (Block.feed_of_timedOut (Block.timedOut_iff.2 ⟨hstate, hlate2⟩) b), rfl, ?_, rfl⟩
  exact List.append_assoc ..

end Sys2Proof.Machine
end

section
/-! PROOFS. The ramp and the emergency stop (44_ramp_limiter.md R153 to R158). -/

namespace Sys2Proof.Machine

/-! One move of one channel. -/

/-- R155(a), (b): toward the target, not past it, and by at most the rate of its direction. -/
theorem advanceActual_bounds {r : Ramp} (hup : 1 ≤ r.up) (hdown : 1 ≤ r.down) (target actual : Nat) :
    (actual < target → actual < advanceActual r target actual ∧ advanceActual r target actual ≤ target) ∧
    (target < actual → target ≤ advanceActual r target actual ∧ advanceActual r target actual < actual) ∧
    advanceActual r target actual ≤ actual + r.up ∧ actual ≤ advanceActual r target actual + r.down := by
  unfold advanceActual
  split
  · omega
  · split <;> omega

/-- Settles O45: the channel after the move is `advanceChannel` of the one before, and R6 makes both rates at
least 1. -/
theorem rladvNeverOvershoots : Obligations.RladvNeverOvershoots := by
  intro s t i x y r hinv hexec hx hy hr
  cases (exec_rladv s).symm.trans hexec
  obtain rfl : advanceChannel r x = y := Option.some.inj ((Block.advance_channels_getElem? hx hr).symm.trans hy)
  obtain ⟨⟨hup, -⟩, hdown, -⟩ := Config.ramp_bounds_of_wf hinv.config (List.mem_of_getElem? hr)
  have hrange := hinv.block.advance.channel_range _ (List.mem_of_getElem? hy)
  obtain ⟨hrises, hfalls, hrateUp, hrateDown⟩ := advanceActual_bounds hup hdown x.target.toNat x.actual.toNat
  rw [← advanceChannel_actual_toNat] at hrises hfalls hrateUp hrateDown
  exact ⟨hrises, hfalls, fun hat => by rw [advanceChannel_of_eq hat], hrateUp, hrateDown, hrange.2⟩

/-! Many moves of one channel. -/

/-- Where an `actual` is after `n` moves with the target held: `n` steps of its rate away, or at the target. -/
def rampAfter (r : Ramp) (target actual n : Nat) : Nat :=
  if actual ≤ target then min target (actual + n * r.up) else max target (actual - n * r.down)

theorem advanceActual_rampAfter (r : Ramp) (target actual n : Nat) :
    advanceActual r target (rampAfter r target actual n) = rampAfter r target actual (n + 1) := by
  unfold rampAfter advanceActual
  rw [Nat.succ_mul, Nat.succ_mul]
  split
  · split
    · omega
    · split <;> omega
  · split
    · omega
    · split <;> omega

theorem advanceActual_iterate (r : Ramp) (target actual n : Nat) :
    (advanceActual r target)^[n] actual = rampAfter r target actual n := by
  induction n with
  | zero =>
    unfold rampAfter
    rw [Nat.zero_mul, Nat.zero_mul, Function.iterate_zero_apply]
    split <;> omega
  | succ n ih => rw [Function.iterate_succ_apply', ih, advanceActual_rampAfter]

/-- A distance is covered by `n` steps when the quotient, rounded up, is at most `n`. -/
theorem ceil_div_le_iff {d rate n : Nat} (hrate : 1 ≤ rate) : (d + rate - 1) / rate ≤ n ↔ d ≤ n * rate := by
  rw [Nat.div_le_iff_le_mul_add_pred hrate, Nat.mul_comm rate n]
  omega

/-- R155(d). -/
theorem rampAfter_eq_target_iff {r : Ramp} (hup : 1 ≤ r.up) (hdown : 1 ≤ r.down) (target actual n : Nat) :
    rampAfter r target actual n = target ↔
      (if actual ≤ target then (target - actual + r.up - 1) / r.up
        else (actual - target + r.down - 1) / r.down) ≤ n := by
  unfold rampAfter
  split
  · rw [ceil_div_le_iff hup]
    omega
  · rw [ceil_div_le_iff hdown]
    omega

theorem advanceChannel_iterate (r : Ramp) (x : Channel) (n : Nat) :
    ((advanceChannel r)^[n] x).target = x.target ∧
      ((advanceChannel r)^[n] x).actual.toNat = (advanceActual r x.target.toNat)^[n] x.actual.toNat := by
  induction n with
  | zero => exact ⟨rfl, rfl⟩
  | succ n ih =>
    obtain ⟨htarget, hactual⟩ := ih
    rw [Function.iterate_succ_apply', Function.iterate_succ_apply', advanceChannel_actual_toNat, htarget, hactual]
    exact ⟨htarget, rfl⟩

/-! Many advances of the block. -/

theorem Block.advance_iterate_channels_getElem? {c : Config} {k : Block} {i : Nat} {x : Channel} {r : Ramp}
    (hx : k.channels[i]? = some x) (hr : c.ramps[i]? = some r) (n : Nat) :
    ((Block.advance c)^[n] k).channels[i]? = some ((advanceChannel r)^[n] x) := by
  induction n with
  | zero => exact hx
  | succ n ih =>
    rw [Function.iterate_succ_apply', Function.iterate_succ_apply']
    exact Block.advance_channels_getElem? ih hr

theorem run_rladv {s : State} {n : Nat} {now : Time}
    (hinputs : s.inputs = List.replicate n (.operation (encode .rladv) now)) :
    ∃ t, Host.Core.run core n s = .next t ∧ t.blk = (Block.advance s.cfg)^[n] s.blk := by
  induction n generalizing s with
  | zero => exact ⟨s, rfl, rfl⟩
  | succ n ih =>
    have hstep := (step_of_encode hinputs).trans (exec_rladv _)
    obtain ⟨t, hrun, hblk⟩ := ih (s := ({ s with
      inputs := List.replicate n (.operation (encode .rladv) now), now := now } : State).after
        (s.blk.advance s.cfg) (Res.done 0)) rfl
    exact ⟨t, (run_succ_of_step (M := core) hstep n).trans hrun, hblk⟩

/-- Settles O46: each step moves the channel as `advanceActual` does, and a run of moves has the closed form
`rampAfter`. -/
theorem rampArrivesAfterCeilCycles : Obligations.RampArrivesAfterCeilCycles := by
  intro s i n x r now hinv hx hr hinputs
  obtain ⟨t, hrun, hblk⟩ := run_rladv hinputs
  obtain ⟨htarget, hactual⟩ := advanceChannel_iterate r x n
  obtain ⟨⟨hup, -⟩, hdown, -⟩ := Config.ramp_bounds_of_wf hinv.config (List.mem_of_getElem? hr)
  refine ⟨t, (advanceChannel r)^[n] x, hrun, ?_, htarget, ?_⟩
  · rw [hblk, Block.advance_iterate_channels_getElem? hx hr]
  · rw [← BitVec.toNat_inj, hactual, advanceActual_iterate]
    exact rampAfter_eq_target_iff hup hdown ..

/-! The emergency stop. -/

theorem exec_estop (s : State) : exec .estop s = .next (s.after s.blk.emergencyStop (Res.done 0)) :=
  exec_of_perform rfl

theorem exec_estopclr (s : State) : exec .estopclr s = .next (s.after s.blk.clearStop (Res.done 0)) :=
  exec_of_perform rfl

/-- Settles O48: every channel is replaced by the same one, at `SAFE`. -/
theorem estopForcesEveryChannelSafe : Obligations.EstopForcesEveryChannelSafe := by
  refine ⟨fun w hcode => decode_of_opwCode hcode rfl trivial, fun s => ?_⟩
  rw [exec_estop, Block.emergencyStop, List.map_const']
  rfl

/-- Settles O49: `ESTOPCLR` has no operand, and its effect is the one field. -/
theorem estopclrClearsTheFlagOnly : Obligations.EstopclrClearsTheFlagOnly :=
  ⟨fun _ hcode => decode_of_opwCode hcode rfl trivial, exec_estopclr⟩

end Sys2Proof.Machine
end

section
/-! PROOFS. Rules of the whole machine, effect by effect (10_state.md R10 to R20; 30_encoding.md R81, R82). -/

namespace Sys2Proof.Machine

namespace Block.Effect

variable {c : Config} {t : Time} {i : Instr} {k k' : Block} {r : Res}

/-! The emergency stop. -/

/-- R157, R158, R172: the operations that write the flag. -/
theorem estop_eq (h : Block.Effect c t k i k' r) (hstop : i ≠ .estop) (hclear : i ≠ .estopclr) (hreset : i ≠ .sreset) :
    k'.estop = k.estop := by
  cases h with
  | kept | refused | polledLate | staged | encoded | targetStored | advanced => simp
  | fed hfeed =>
    obtain ⟨-, -, -, -, hestop⟩ := (Block.transition_of_feed hfeed).frame
    exact hestop
  | stopped => exact absurd rfl hstop
  | stopCleared => exact absurd rfl hclear
  | reset => exact absurd rfl hreset

/-- R20: the flag ends by one of two operations. -/
theorem eq_estopclr_or_sreset (h : Block.Effect c t k i k' r) (hbefore : k.estop = true) (hafter : k'.estop = false) :
    i = .estopclr ∨ i = .sreset := by
  by_contra hother
  obtain ⟨hclear, hreset⟩ := not_or.1 hother
  have hstop : i ≠ .estop := by
    rintro rfl
    cases h with
    | kept => exact Bool.false_ne_true (hafter.symm.trans hbefore)
    | refused hr => cases hr
    | stopped => cases hafter
  rw [h.estop_eq hstop hclear hreset, hbefore] at hafter
  cases hafter

end Block.Effect

/-- Settles O50: a step that clears the flag is the pin, or an operation that clears it. -/
theorem emergencyStopIsSticky : Obligations.EmergencyStopIsSticky := by
  intro s t hstep hbefore hafter
  cases step_cases hstep with
  | idle => exact absurd hafter (by rw [hbefore]; decide)
  | resetPin hinputs => exact .inl ⟨_, hinputs⟩
  | operation hinputs hdecode hexec =>
    obtain ⟨k, r, heffect, rfl⟩ := effect_of_exec hexec
    obtain rfl | rfl := heffect.eq_estopclr_or_sreset hbefore hafter
    · exact .inr ⟨_, _, _, hinputs, .inl hdecode⟩
    · exact .inr ⟨_, _, _, hinputs, .inr hdecode⟩

/-- Settles O51: where the flag stays set the invariant says it, and the two operations that clear it leave safe
channels as they are or put them at their reset values. -/
theorem stoppedChannelsStaySafe : Obligations.StoppedChannelsStaySafe := by
  intro i s t hinv hbefore hexec
  cases hafter : t.blk.estop with
  | true => exact (hinv.exec hexec).block.estop_safe hafter
  | false =>
    obtain ⟨k, r, heffect, ht⟩ := effect_of_exec hexec
    obtain rfl | rfl := heffect.eq_estopclr_or_sreset hbefore (by rw [← hafter, ht, State.after_blk])
    · cases (exec_estopclr s).symm.trans hexec
      exact hinv.block.estop_safe hbefore
    · cases (exec_sreset s).symm.trans hexec
      exact fun _ => Block.mem_reset_channels

/-! The channels. -/

/-- R150: a store of a target leaves every actual. -/
theorem Block.map_actual_storeTarget (ch : Nat) (v : Byte) (k : Block) :
    (k.storeTarget ch v).channels.map Channel.actual = k.channels.map Channel.actual := by
  refine List.ext_getElem? fun j => ?_
  rw [List.getElem?_map, List.getElem?_map, Block.storeTarget_channels_getElem?]
  split
  · rw [Option.map_map]
    rfl
  · rfl

/-- R153: an advance leaves every target. -/
theorem Block.map_target_advance {c : Config} {k : Block} (h : k.channels.length = c.nCh) :
    (k.advance c).channels.map Channel.target = k.channels.map Channel.target := by
  refine List.ext_getElem ?_ fun j hj hj' => ?_
  · rw [List.length_map, List.length_map, Block.advance_channels_length h, h]
  · simp [advanceChannel]

namespace Block.Effect

variable {c : Config} {t : Time} {i : Instr} {k k' : Block} {r : Res}

/-- R153, R157, R172: the operations that write an actual. -/
theorem map_actual_eq (h : Block.Effect c t k i k' r) (hadvance : i ≠ .rladv) (hstop : i ≠ .estop)
    (hreset : i ≠ .sreset) : k'.channels.map Channel.actual = k.channels.map Channel.actual := by
  cases h with
  | kept | refused | polledLate | staged | encoded | stopCleared => simp
  | fed hfeed =>
    obtain ⟨-, -, -, hchannels, -⟩ := (Block.transition_of_feed hfeed).frame
    rw [hchannels]
  | targetStored ch v => exact Block.map_actual_storeTarget ..
  | advanced => exact absurd rfl hadvance
  | stopped => exact absurd rfl hstop
  | reset => exact absurd rfl hreset

end Block.Effect

/-- Settles O52: an advance moves each channel at its rates, and the other two writers of an actual write 0. -/
theorem actualMovesOnlyAtItsRate : Obligations.ActualMovesOnlyAtItsRate := by
  intro i s t ch x y r hinv hexec hx hy hr hne
  by_cases hadvance : i = .rladv
  · subst hadvance
    obtain ⟨-, -, -, hup, hdown, -⟩ := rladvNeverOvershoots s t ch x y r hinv hexec hx hy hr
    exact .inl ⟨rfl, hup, hdown⟩
  by_cases hstop : i = .estop
  · subst hstop
    cases (exec_estop s).symm.trans hexec
    exact .inr ⟨.inl rfl, by rw [Block.mem_emergencyStop_channels (List.mem_of_getElem? hy)]; rfl⟩
  by_cases hreset : i = .sreset
  · subst hreset
    cases (exec_sreset s).symm.trans hexec
    exact .inr ⟨.inr rfl, (Block.mem_reset_channels (List.mem_of_getElem? hy)).2⟩
  obtain ⟨k, res, heffect, rfl⟩ := effect_of_exec hexec
  have hsame := congrArg (·[ch]?) (heffect.map_actual_eq hadvance hstop hreset)
  simp only [List.getElem?_map] at hsame
  rw [hx, show k.channels[ch]? = some y from hy] at hsame
  exact absurd (Option.some.inj hsame) hne

/-- Settles O57: effect by effect, a field that changed is one the operation writes. -/
theorem writersOfEachField : Obligations.WritersOfEachField := by
  intro i s t hexec hreset
  obtain ⟨k, r, heffect, rfl⟩ := effect_of_exec hexec
  rw [State.after_blk]
  cases heffect with
  | kept | refused | polledLate | staged | encoded | stopped | stopCleared => simp
  | fed hfeed =>
    obtain ⟨htxp, htxf, htxfLen, hchannels, hestop⟩ := (Block.transition_of_feed hfeed).frame
    simp [htxp, htxf, htxfLen, hchannels, hestop]
  | targetStored ch v => simp [Block.map_actual_storeTarget, -Block.storeTarget_channels]
  | advanced =>
    refine ⟨by simp, by simp, by simp, by simp, fun hne hlength => ?_, fun _ => .inl rfl, by simp⟩
    exact absurd (Block.map_target_advance hlength) hne
  | reset => exact absurd rfl hreset

/-! The latch and the counters. -/

/-- R114: `COMPLETE` comes from a byte. -/
theorem Block.Effect.exists_eq_rxfeed {c : Config} {t : Time} {i : Instr} {k k' : Block} {r : Res}
    (h : Block.Effect c t k i k' r) (hr : r.st = .complete) : ∃ b, i = .rxfeed b := by
  cases h with
  | fed => exact ⟨_, rfl⟩
  | kept | refused | polledLate | staged | encoded | targetStored | advanced | stopped | stopCleared | reset => cases hr

theorem Block.Effect.latch_eq {c : Config} {t : Time} {i : Instr} {k k' : Block} {r : Res}
    (h : Block.Effect c t k i k' r) (hreset : i ≠ .sreset) (hr : r.st ≠ .complete) : k'.latch = k.latch := by
  cases h with
  | fed hfeed => exact (Block.transition_of_feed hfeed).latch_eq hr
  | polledLate => exact Block.latch_discardFrame .timeout k
  | reset => exact absurd rfl hreset
  | kept | refused | staged | encoded | targetStored | advanced | stopped | stopCleared => rfl

/-- Settles O53: every other effect leaves the latch. -/
theorem latchChangesOnlyOnComplete : Obligations.LatchChangesOnlyOnComplete := by
  intro i s t hexec hne
  obtain ⟨k, r, heffect, rfl⟩ := effect_of_exec hexec
  by_cases hreset : i = .sreset
  · exact .inl hreset
  · have hr : r.st = .complete := by
      by_contra hr
      exact hne (heffect.latch_eq hreset hr)
    exact .inr ⟨heffect.exists_eq_rxfeed hr, r, rfl, hr⟩

/-- From `k` to `k'` the counters count one discard for the reason `r`, or nothing where `r` is no reason of a discard
(R15, R181, R184). -/
def Block.Counts (r : Reason) (k k' : Block) : Prop :=
  k'.cntFraming.toNat =
    (if r = .timeout ∨ r = .overflow ∨ r = .badEnd then min 0xFFFF (k.cntFraming.toNat + 1) else k.cntFraming.toNat) ∧
  k'.cntChecksum.toNat =
    (if r = .checksum then min 0xFFFF (k.cntChecksum.toNat + 1) else k.cntChecksum.toNat)

theorem Block.counts_discardFrame {r : Reason} {k k₁ : Block} (hframing : k₁.cntFraming = k.cntFraming)
    (hchecksum : k₁.cntChecksum = k.cntChecksum) : Block.Counts r k (k₁.discardFrame r) := by
  unfold Block.Counts
  rw [← hframing, ← hchecksum]
  cases r with
  | timeout | overflow | badEnd => exact ⟨satInc_toNat _, rfl⟩
  | checksum => exact ⟨rfl, satInc_toNat _⟩
  | none | illegalOp | badIndex | badLength | badChannel => exact ⟨rfl, rfl⟩

theorem Block.counts_none {k k' : Block} (hframing : k'.cntFraming = k.cntFraming)
    (hchecksum : k'.cntChecksum = k.cntChecksum) : Block.Counts .none k k' :=
  ⟨congrArg BitVec.toNat hframing, congrArg BitVec.toNat hchecksum⟩

/-- A refusal is no discard. -/
theorem Block.counts_refused {i : Instr} {r : Reason} (h : refusalReason i = some r) (k : Block) :
    Block.Counts r k k := by
  cases i <;> cases h <;> exact ⟨rfl, rfl⟩

theorem Block.Transition.counts {c : Config} {b : Byte} {t : Time} {k k' : Block} {r : Res}
    (h : Block.Transition c b t k k' r) : Block.Counts r.reason k k' := by
  cases h with
  | ignored | opened | more | completed => exact Block.counts_none rfl rfl
  | lateIgnored | lateOpened => exact Block.counts_discardFrame (r := .timeout) (k₁ := k) rfl rfl
  | overflow | badEnd | badChecksum => exact Block.counts_discardFrame rfl rfl

theorem Block.Effect.counts {c : Config} {t : Time} {i : Instr} {k k' : Block} {r : Res}
    (h : Block.Effect c t k i k' r) (hreset : i ≠ .sreset) : Block.Counts r.reason k k' := by
  cases h with
  | kept | staged | encoded | targetStored | advanced | stopped | stopCleared => exact Block.counts_none rfl rfl
  | refused hr => exact Block.counts_refused hr k
  | fed hfeed => exact (Block.transition_of_feed hfeed).counts
  | polledLate => exact Block.counts_discardFrame rfl rfl
  | reset => exact absurd rfl hreset

/-- Settles O54: a discard counts once, and nothing else counts. -/
theorem countersCountDiscards : Obligations.CountersCountDiscards :=
  fun _ _ _ _ hreset hexec hresults => (effect_of_exec_of_results hexec hresults).counts hreset

/-! Results. -/

/-- R82: the reasons a refusal can have, with the operations each belongs to. -/
theorem refusalReason_cases {i : Instr} {r : Reason} (h : refusalReason i = some r) :
    r = .illegalOp ∧ (i = .reservedD ∨ i = .reservedE) ∨
      r = .badIndex ∧ ((∃ a b, i = .txpwr a b) ∨ (∃ a, i = .txfrd a ∨ i = .rxfrd a ∨ i = .csrrd a)) ∨
      r = .badLength ∧ (∃ a b, i = .txenc a b) ∨
      r = .badChannel ∧ ((∃ a b, i = .rlset a b) ∨ ∃ a, i = .rlrd a) := by
  cases i <;> cases h <;> simp

/-- Settles O55: the result of each effect is one of the forms that R81 and R82 allow. -/
theorem resultsAreWellFormed : Obligations.ResultsAreWellFormed := by
  intro i s t r hexec hresults
  have heffect := effect_of_exec_of_results hexec hresults
  generalize t.blk = k at heffect ⊢
  cases heffect with
  | kept | staged | encoded | targetStored | advanced | stopped | stopCleared | reset => rfl
  | refused hr => exact ⟨rfl, rfl, refusalReason_cases hr⟩
  | polledLate => exact ⟨rfl, Block.discardFrame_rxfValid .., .inl ⟨rfl, rfl⟩⟩
  | @fed b _ _ hfeed =>
    have hrow := Block.transition_of_feed hfeed
    have hvalid (hr : r.st ≠ .complete) : k.rxfValid = s.blk.rxfValid :=
      (Block.latch_eq_iff.1 (hrow.latch_eq hr)).1
    obtain rfl | rfl | rfl | rfl | rfl | rfl := hrow.result_cases
    · rfl
    · exact ⟨rfl, b, rfl⟩
    · exact ⟨rfl, hvalid nofun, .inr ⟨⟨b, rfl⟩, .inl rfl⟩⟩
    · exact ⟨rfl, hvalid nofun, .inr ⟨⟨b, rfl⟩, .inr (.inl rfl)⟩⟩
    · exact ⟨rfl, hvalid nofun, .inr ⟨⟨b, rfl⟩, .inr (.inr (.inl rfl))⟩⟩
    · exact ⟨rfl, hvalid nofun, .inr ⟨⟨b, rfl⟩, .inr (.inr (.inr rfl))⟩⟩

/-! Reads, and the time. -/

/-- R44: an operation that reads leaves the block. -/
theorem Block.Effect.eq_of_read {c : Config} {t : Time} {i : Instr} {k k' : Block} {r : Res}
    (h : Block.Effect c t k i k' r)
    (hread : (∃ a, i = .txfrd a ∨ i = .rxfrd a ∨ i = .csrrd a) ∨ ∃ ch, i = .rlrd ch) : k' = k := by
  obtain ⟨a, rfl | rfl | rfl⟩ | ⟨ch, rfl⟩ := hread
  all_goals
    cases h with
    | kept => rfl
    | refused => rfl

/-- Settles O56: the block is the same, and the result depends on nothing else that the operation wrote. -/
theorem readsHaveNoSideEffect : Obligations.ReadsHaveNoSideEffect := by
  intro i s t r hread hexec hresults
  have hsame := (effect_of_exec_of_results hexec hresults).eq_of_read hread
  obtain ⟨k, r', hperform, rfl⟩ := exec_next_iff.1 hexec
  obtain rfl : r' = r := by simpa using hresults
  obtain rfl : k = s.blk := hsame
  exact ⟨rfl, exec_of_perform (s := s.after s.blk r') hperform⟩

/-- R24: what an operation other than the parser's does is not a function of the time. -/
theorem Block.perform_time {i : Instr} (hpoll : i ≠ .rxpoll) (hfeed : ∀ b, i ≠ .rxfeed b) (c : Config) (t t' : Time)
    (k : Block) : k.perform c t' i = k.perform c t i := by
  cases i with
  | rxpoll => exact absurd rfl hpoll
  | rxfeed b => exact absurd rfl (hfeed b)
  | nop | txpwr | txenc | txfrd | rxfrd | csrrd | rlset | rladv | rlrd | estop | estopclr | reservedD | reservedE
  | sreset => rfl

/-- Settles O58: the effect on the block and the result are what they were, and `now` is only carried along. -/
theorem onlyTheParserLooksAtNow : Obligations.OnlyTheParserLooksAtNow := by
  intro i s t now hpoll hfeed hexec
  obtain ⟨k, r, hperform, rfl⟩ := exec_next_iff.1 hexec
  exact exec_of_perform (s := { s with now := now })
    ((Block.perform_time hpoll hfeed s.cfg s.now now s.blk).trans hperform)

end Sys2Proof.Machine
end

section
/-! PROOFS. What lies in the buffers beyond their length registers is unobservable (10_state.md R13, R16;
93_implementation_defined.md I7). -/

namespace Sys2Proof.Machine

/-- The block with other contents in the three buffers that can hold stale bytes. -/
def Block.withBuffers (m p f : Memory) (k : Block) : Block := { k with rxbuf := m, rxfPayload := p, txf := f }

/-- The three buffers agree with the block's own on every byte that is not stale. -/
structure Block.AgreesWith (k : Block) (m p f : Memory) : Prop where
  rxbuf : ∀ a < k.rxCount.toNat, k.rxbuf.read a = m.read a
  rxfPayload : ∀ a < k.rxfLen.toNat, k.rxfPayload.read a = p.read a
  txf : ∀ a < k.txfLen.toNat, k.txf.read a = f.read a

/-- The operation, performed with the other buffers too, answers the same and leaves buffers that agree again. -/
def Block.Mirrors (e : Except Fault (Block × Res)) (k : Block) (r : Res) : Prop :=
  ∃ m p f, e = .ok (k.withBuffers m p f, r) ∧ k.AgreesWith m p f

/-! Writes to both. -/

theorem read_write_congr {m m' : Memory} (hm : m.wf = true) (hm' : m'.wf = true) {n : Nat}
    (h : ∀ a < n, m.read a = m'.read a) (b : Byte) : ∀ a < n + 1, (m.write n b).read a = (m'.write n b).read a := by
  intro a ha
  rw [Memory.read_write hm, Memory.read_write hm']
  split
  · rfl
  · exact h a (by omega)

theorem read_writeList_congr {m m' : Memory} (hm : m.wf = true) (hm' : m'.wf = true) (bs : List Byte) :
    ∀ a < bs.length, (m.writeList 0 bs).read a = (m'.writeList 0 bs).read a := by
  intro a ha
  rw [Memory.read_writeList hm, Memory.read_writeList hm', if_pos (by omega), if_pos (by omega)]

/-! Operations that do not use the three buffers. -/

/-- The operations that read `rxbuf`, `rxf_payload` or `txf`, or write one of them (R40). -/
def usesBuffers : Instr → Bool
  | .rxfeed _ | .txenc _ _ | .txfrd _ | .rxfrd _ | .sreset => true
  | .nop | .rxpoll | .txpwr _ _ | .csrrd _ | .rlset _ _ | .rladv | .rlrd _ | .estop | .estopclr | .reservedD
  | .reservedE => false

/-- The others do the same to the block whatever is in the buffers. -/
theorem Block.perform_withBuffers {i : Instr} (hi : usesBuffers i = false) (c : Config) (t : Time) (k : Block)
    (m p f : Memory) :
    (k.withBuffers m p f).perform c t i = (k.perform c t i).map fun q => (q.1.withBuffers m p f, q.2) := by
  cases i with
  | rxfeed | txenc | txfrd | rxfrd | sreset => cases hi
  | nop | rladv | estop | estopclr | reservedD | reservedE => rfl
  | rxpoll =>
    have htime : (k.withBuffers m p f).timedOut c t = k.timedOut c t := rfl
    simp only [Block.perform, Block.poll, htime]
    split <;> rfl
  | txpwr x b =>
    simp only [Block.perform, Block.stagePayload]
    split <;> rfl
  | csrrd x =>
    have hentry : (k.withBuffers m p f).statusReg c x.toNat = k.statusReg c x.toNat := rfl
    simp only [Block.perform, Block.readStatus, hentry]
    cases k.statusReg c x.toNat <;> rfl
  | rlset ch v =>
    have hchannels : (k.withBuffers m p f).channels = k.channels := rfl
    simp only [Block.perform, Block.setTarget, Block.onChannel, hchannels]
    split
    · rfl
    · cases k.channels[ch.toNat]? <;> rfl
  | rlrd ch =>
    have hchannels : (k.withBuffers m p f).channels = k.channels := rfl
    simp only [Block.perform, Block.readChannel, Block.onChannel, hchannels]
    split
    · rfl
    · cases k.channels[ch.toNat]? <;> rfl

namespace Block.AgreesWith

variable {c : Config} {t : Time} {b : Byte} {k : Block} {m p f : Memory} {r : Res}

/-- With nothing in flight all of `rxbuf` is stale. -/
theorem discardFrame (h : k.AgreesWith m p f) (r : Reason) :
    Block.Mirrors (.ok ((k.withBuffers m p f).discardFrame r, Res.invalid r)) (k.discardFrame r) (Res.invalid r) := by
  refine ⟨m, p, f, by cases r <;> rfl, fun a ha => ?_, by simpa using h.rxfPayload, by simpa using h.txf⟩
  rw [Block.discardFrame_rxCount] at ha
  exact absurd ha (Nat.not_lt_zero a)

/-! The parser. -/

theorem awaitByte (h : k.AgreesWith m p f) (hk : k.rxbuf.wf = true) (hm : m.wf = true) (b : Byte) (r : Res) :
    Block.Mirrors (.ok ((k.withBuffers m p f).awaitByte c b, r)) (k.awaitByte c b) r := by
  by_cases hb : b = c.start
  · rw [Block.awaitByte_of_eq hb, Block.awaitByte_of_eq hb]
    have hnone : ∀ a < 0, k.rxbuf.read a = m.read a := fun a ha => absurd ha (Nat.not_lt_zero a)
    exact ⟨m.write 0 b, p, f, rfl, read_write_congr hk hm hnone b, h.rxfPayload, h.txf⟩
  · rw [Block.awaitByte_of_ne hb, Block.awaitByte_of_ne hb]
    exact ⟨m, p, f, rfl, h⟩

theorem stamp (h : k.AgreesWith m p f) (t : Time) : (k.stamp t).AgreesWith m p f := ⟨h.rxbuf, h.rxfPayload, h.txf⟩

theorem discarded_stamp (h : k.AgreesWith m p f) (t : Time) :
    ((k.discardFrame .timeout).stamp t).AgreesWith m p f :=
  ⟨fun a ha => absurd ha (Nat.not_lt_zero a), h.rxfPayload, h.txf⟩

/-- The byte stored is not stale, and it is the same in both. -/
theorem read_received (h : k.AgreesWith m p f) (hk : k.rxbuf.wf = true) (hm : m.wf = true) (b : Byte) (t : Time) :
    ∀ a < k.rxCount.toNat + 1, (k.received b t).rxbuf.read a = (m.write k.rxCount.toNat b).read a :=
  read_write_congr hk hm h.rxbuf b

theorem received (h : k.AgreesWith m p f) (hwf : c.wf = true) (hroom : k.rxCount.toNat < c.maxFrame)
    (hk : k.rxbuf.wf = true) (hm : m.wf = true) (b : Byte) (t : Time) :
    (k.received b t).AgreesWith (m.write k.rxCount.toNat b) p f where
  rxbuf := Block.received_rxCount_toNat hwf hroom b t ▸ h.read_received hk hm b t
  rxfPayload := h.rxfPayload
  txf := h.txf

/-- LENGTH is looked at only once it has been received (R112). -/
theorem frameEnds_eq {n : Nat} (h : ∀ a < n, k.rxbuf.read a = m.read a) :
    (k.withBuffers m p f).frameEnds n = k.frameEnds n := by
  rw [Bool.eq_iff_iff, Block.frameEnds_iff, Block.frameEnds_iff]
  refine and_congr_right fun hthree => ?_
  rw [h 2 hthree]
  rfl

/-- The latch takes received bytes only (R114). -/
theorem latchFrame (h : k.AgreesWith m p f) (hp : p.wf = true) (hk : k.rxfPayload.wf = true)
    (hends : k.rxCount.toNat = (k.rxbuf.read 2).toNat + 5) (r : Res) :
    Block.Mirrors (.ok ((k.withBuffers m p f).latchFrame.parserReset, r)) k.latchFrame.parserReset r := by
  have hread := h.rxbuf
  have hpayload : k.rxbuf.readRange 3 (k.rxbuf.read 2).toNat = m.readRange 3 (k.rxbuf.read 2).toNat :=
    Memory.readRange_congr fun i hi => hread _ (by omega)
  have hlatch : (k.withBuffers m p f).latchFrame =
      k.latchFrame.withBuffers m (p.writeList 0 (k.rxbuf.readRange 3 (k.rxbuf.read 2).toNat)) f := by
    rw [hpayload]
    unfold Block.latchFrame
    rw [hread 1 (by omega), hread 2 (by omega)]
    rfl
  refine ⟨m, _, f, by rw [hlatch]; rfl, fun a ha => absurd ha (Nat.not_lt_zero a), ?_, h.txf⟩
  have hsame := read_writeList_congr hk hp (k.rxbuf.readRange 3 (k.rxbuf.read 2).toNat)
  rwa [Memory.length_readRange] at hsame

/-- The verdict on a frame looks at received bytes only (R114, R115). -/
theorem finishFrame (h : k.AgreesWith m p f) (hp : p.wf = true) (hk : k.rxfPayload.wf = true)
    (hends : k.rxCount.toNat = (k.rxbuf.read 2).toNat + 5) (b : Byte) :
    Block.Mirrors (.ok ((k.withBuffers m p f).finishFrame c b k.rxCount.toNat))
      (k.finishFrame c b k.rxCount.toNat).1 (k.finishFrame c b k.rxCount.toNat).2 := by
  have hread := h.rxbuf
  have hdigested : k.rxbuf.readRange 1 (k.rxCount.toNat - 3) = m.readRange 1 (k.rxCount.toNat - 3) :=
    Memory.readRange_congr fun i hi => hread _ (by omega)
  obtain ⟨hb, hcase⟩ | ⟨rfl, hdigest, hcase⟩ | ⟨rfl, hdigest, hcase⟩ :=
    Block.finishFrame_cases c b k.rxCount.toNat k <;> rw [hcase]
  · rw [Block.finishFrame_of_ne hb]
    exact h.discardFrame .badEnd
  · rw [hdigested, hread _ (by omega)] at hdigest
    rw [Block.finishFrame_of_digest_ne (k := k.withBuffers m p f) hdigest]
    exact h.discardFrame .checksum
  · rw [hdigested, hread (k.rxCount.toNat - 2) (by omega)] at hdigest
    rw [Block.finishFrame_of_digest_eq (k := k.withBuffers m p f) hdigest, hread 1 (by omega), hread 2 (by omega)]
    exact h.latchFrame hp hk hends _

theorem feed (h : k.AgreesWith m p f) (hwf : c.wf = true) (hk : k.Inv c) (hk' : (k.withBuffers m p f).Inv c)
    {k' : Block} (hfeed : k.feed c b t = .ok (k', r)) : Block.Mirrors ((k.withBuffers m p f).feed c b t) k' r := by
  have hrx := hk.rxbuf_fits.canonical
  have hm : m.wf = true := hk'.rxbuf_fits.canonical
  cases Block.feed_cases hfeed with
  | late hlate =>
    rw [Block.feed_of_timedOut (k := k.withBuffers m p f) hlate]
    exact (h.discarded_stamp t).awaitByte hrx hm b _
  | await hstate =>
    rw [Block.feed_of_awaitingStart (k := k.withBuffers m p f) hstate]
    exact (h.stamp t).awaitByte hrx hm b _
  | overflow hintime hstate hfull =>
    have htime := (Block.timedOut_eq_false_iff.1 hintime).resolve_left (by rw [hstate]; nofun)
    rw [Block.feed_of_full (k := k.withBuffers m p f) hstate htime hfull]
    exact (h.stamp t).discardFrame .overflow
  | more hintime hstate hroom hmore =>
    have htime := (Block.timedOut_eq_false_iff.1 hintime).resolve_left (by rw [hstate]; nofun)
    have hsame := frameEnds_eq (p := p) (f := f) (h.read_received hrx hm b t)
    have hmore' : ¬((k.withBuffers m p f).received b t).frameEnds ((k.withBuffers m p f).rxCount.toNat + 1) = true :=
      Bool.eq_false_iff.1 (hsame.trans hmore)
    rw [Block.feed_of_inFrame (k := k.withBuffers m p f) hstate htime hroom, Block.endOrGoOn, if_neg hmore']
    exact ⟨_, p, f, rfl, h.received hwf hroom hrx hm b t⟩
  | finish hintime hstate hroom hends k' r hfinish =>
    have htime := (Block.timedOut_eq_false_iff.1 hintime).resolve_left (by rw [hstate]; nofun)
    have hcount := Block.received_rxCount_toNat hwf hroom b t
    have hsame := frameEnds_eq (p := p) (f := f) (h.read_received hrx hm b t)
    have hverdict := (h.received hwf hroom hrx hm b t).finishFrame (c := c) hk'.rxf_payload_fits.canonical
      hk.rxf_payload_fits.canonical (hcount ▸ (Block.frameEnds_iff.1 hends).2) b
    rw [hcount, hfinish] at hverdict
    have hends' : ((k.withBuffers m p f).received b t).frameEnds ((k.withBuffers m p f).rxCount.toNat + 1) = true :=
      hsame.trans hends
    rw [Block.feed_of_inFrame (k := k.withBuffers m p f) hstate htime hroom, Block.endOrGoOn, if_pos hends']
    exact hverdict

/-! The other operations that look at a buffer or write one. -/

theorem storeFrame (h : k.AgreesWith m p f) (hk : k.txf.wf = true) (hf : f.wf = true) (bs : List Byte) (r : Res) :
    Block.Mirrors (.ok ((k.withBuffers m p f).storeFrame bs, r)) (k.storeFrame bs) r := by
  refine ⟨m, p, f.writeList 0 bs, rfl, h.rxbuf, h.rxfPayload, fun a ha => read_writeList_congr hk hf bs a ?_⟩
  rw [Block.storeFrame_txfLen, BitVec.toNat_ofNat] at ha
  exact ha.trans_le (Nat.mod_le ..)

theorem encodeStaged (h : k.AgreesWith m p f) (hk : k.txf.wf = true) (hf : f.wf = true) {len : Nat} {cmd : Byte}
    {k' : Block} (hencode : k.encodeStaged c len cmd = (k', r)) :
    Block.Mirrors (.ok ((k.withBuffers m p f).encodeStaged c len cmd)) k' r := by
  obtain hlt | hle := Nat.lt_or_ge c.nMax len
  · rw [Block.encodeStaged, if_pos hlt] at hencode ⊢
    cases hencode
    exact ⟨m, p, f, rfl, h⟩
  · rw [Block.encodeStaged, if_neg (Nat.not_lt.2 hle)] at hencode ⊢
    cases hencode
    exact h.storeFrame hk hf (k.stagedFrame c len cmd) _

theorem readTxFrame (h : k.AgreesWith m p f) {i : Nat} (hlen : k.txfLen.toNat ≤ c.maxFrame) {k' : Block}
    (hread : k.readTxFrame c i = .ok (k', r)) : Block.Mirrors ((k.withBuffers m p f).readTxFrame c i) k' r := by
  obtain ⟨rfl, ⟨hi, rfl⟩ | ⟨hi, rfl⟩⟩ := Block.readTxFrame_cases hread
  · exact ⟨m, p, f, Block.readTxFrame_of_le (k := k'.withBuffers m p f) hi, h⟩
  · rw [h.txf i hi]
    exact ⟨m, p, f, Block.readTxFrame_of_lt (k := k'.withBuffers m p f) hi hlen, h⟩

theorem readRxPayload (h : k.AgreesWith m p f) {i : Nat} (hlen : k.rxfLen.toNat ≤ c.nMax) {k' : Block}
    (hread : k.readRxPayload c i = .ok (k', r)) : Block.Mirrors ((k.withBuffers m p f).readRxPayload c i) k' r := by
  obtain ⟨rfl, ⟨hi, rfl⟩ | ⟨hvalid, hi, rfl⟩⟩ := Block.readRxPayload_cases hread
  · exact ⟨m, p, f, Block.readRxPayload_of_invalid_or_le (k := k'.withBuffers m p f) hi, h⟩
  · rw [h.rxfPayload i hi]
    exact ⟨m, p, f, Block.readRxPayload_of_lt (k := k'.withBuffers m p f) hvalid hi hlen, h⟩

/-- An operation that does not use the three buffers leaves what it left of them, and the registers that say how much of
them is not stale, unless it discards a frame. -/
theorem of_effect (h : k.AgreesWith m p f) {i : Instr} {k' : Block} (hi : usesBuffers i = false)
    (heffect : Block.Effect c t k i k' r) : k'.AgreesWith m p f := by
  cases heffect with
  | kept | refused => exact h
  | polledLate => exact ⟨fun a ha => absurd ha (Nat.not_lt_zero a), h.rxfPayload, h.txf⟩
  | staged | targetStored | advanced | stopped | stopCleared => exact ⟨h.rxbuf, h.rxfPayload, h.txf⟩
  | fed | encoded | reset => cases hi

theorem perform (h : k.AgreesWith m p f) (hwf : c.wf = true) (hk : k.Inv c) (hk' : (k.withBuffers m p f).Inv c)
    {i : Instr} {k' : Block} (hperform : k.perform c t i = .ok (k', r)) :
    Block.Mirrors ((k.withBuffers m p f).perform c t i) k' r := by
  cases hi : usesBuffers i with
  | false =>
    refine ⟨m, p, f, ?_, h.of_effect hi (Block.effect_of_perform hperform)⟩
    rw [Block.perform_withBuffers hi, hperform]
    rfl
  | true =>
    cases i with
    | rxfeed b => exact h.feed hwf hk hk' hperform
    | txfrd x => exact h.readTxFrame hk.txf_len_le hperform
    | rxfrd x => exact h.readRxPayload hk.rxf_len_le hperform
    | txenc l x => exact h.encodeStaged hk.txf_fits.canonical hk'.txf_fits.canonical (Except.ok.inj hperform)
    | sreset =>
      cases hperform
      exact ⟨[], [], [], rfl, fun _ _ => rfl, fun _ _ => rfl, fun _ _ => rfl⟩
    | nop | rxpoll | txpwr | csrrd | rlset | rladv | rlrd | estop | estopclr | reservedD | reservedE => cases hi

end Block.AgreesWith

/-- Settles O59: the second state's block is the first's with other buffers, and every operation answers it alike. -/
theorem staleBytesAreUnobservable : Obligations.StaleBytesAreUnobservable := by
  intro i s s' t hinv hinv' hstate hagree hexec
  obtain ⟨hblk, hrxbuf, hpayload, htxf⟩ := hagree
  obtain ⟨k, r, hperform, rfl⟩ := exec_next_iff.1 hexec
  have hsame : s.blk.withBuffers s'.blk.rxbuf s'.blk.rxfPayload s'.blk.txf = s'.blk := hblk
  have hcfg : s'.cfg = s.cfg := (congrArg State.cfg hstate).symm
  have hnow : s'.now = s.now := (congrArg State.now hstate).symm
  have hblock' := hinv'.block
  rw [hcfg, ← hsame] at hblock'
  obtain ⟨m, p, f, hmirror, hrest⟩ := Block.AgreesWith.perform ⟨hrxbuf, hpayload, htxf⟩ hinv.config hinv.block hblock'
    hperform
  rw [hsame, ← hcfg, ← hnow] at hmirror
  refine ⟨_, exec_of_perform hmirror, ?_, rfl, hrest.rxbuf, hrest.rxfPayload, hrest.txf⟩
  rw [← hstate]
  rfl

end Sys2Proof.Machine
end

section
/-! PROOFS. The host's replies (60_exceptions.md R190 to R193; 30_encoding.md R75). -/

namespace Sys2Proof.Machine

/-- R6, R61: the command codes are distinct. -/
theorem cmdUpdate_ne_cmdPing_of_wf {c : Config} (h : c.wf = true) : c.host.cmdUpdate ≠ c.host.cmdPing := by
  simp only [Config.wf, Config.commandsLegal, Bool.and_eq_true, decide_eq_true_eq, List.nodup_cons, List.mem_cons] at h
  tauto

theorem dispatchReply_ping (c : Config) (derived : DerivedValues) (payload : List Byte) :
    dispatchReply c derived c.host.cmdPing payload =
      if payload = [] then (c.host.cmdAck, []) else (c.host.cmdNak, []) := if_pos rfl

theorem dispatchReply_update {c : Config} (h : c.wf = true) (derived : DerivedValues) (q : UpdateRequest) :
    dispatchReply c derived c.host.cmdUpdate (updateRequestPayload q) =
      (c.host.cmdAck, updateAckPayload (derived q).1 (derived q).2 q) := by
  rw [dispatchReply, if_neg (cmdUpdate_ne_cmdPing_of_wf h), if_pos rfl, readUpdateRequest_updateRequestPayload]

/-- R191: what is no liveness check without payload and no update with the bytes of its schema. -/
theorem dispatchReply_nak {c : Config} (hwf : c.wf = true) (derived : DerivedValues) {command : Byte}
    {payload : List Byte}
    (h : command ≠ c.host.cmdPing ∧ command ≠ c.host.cmdUpdate ∨
      command = c.host.cmdPing ∧ payload ≠ [] ∨ command = c.host.cmdUpdate ∧ payload.length ≠ 7) :
    dispatchReply c derived command payload = (c.host.cmdNak, []) := by
  obtain ⟨hping, hupdate⟩ | ⟨rfl, hpayload⟩ | ⟨rfl, hlength⟩ := h
  · rw [dispatchReply, if_neg hping, if_neg hupdate]
  · rw [dispatchReply_ping, if_neg hpayload]
  · rw [dispatchReply, if_neg (cmdUpdate_ne_cmdPing_of_wf hwf), if_pos rfl, readUpdateRequest_of_length_ne hlength]

theorem hostReply_complete (c : Config) (derived : DerivedValues) (k : Block) (d : Word) :
    hostReply c derived k (Res.complete d) =
      some (dispatchReply c derived k.rxfCmd (k.rxfPayload.readRange 0 k.rxfLen.toNat)) := rfl

/-- R192, R193: which discards are answered. -/
theorem hostReply_invalid (c : Config) (derived : DerivedValues) (k : Block) (r : Reason) :
    hostReply c derived k (Res.invalid r) =
      if r = .checksum ∨ r ∈ c.host.nakOnFraming then some (c.host.cmdNak, []) else none := rfl

/-- Settles O60: the dispatcher is run on each kind of frame and of result; only the update needs the codes to be
distinct. -/
theorem hostRepliesOncePerEvent : Obligations.HostRepliesOncePerEvent := by
  intro c derived hwf
  refine ⟨by rw [dispatchReply_ping, if_pos rfl], fun q => ?_, fun hexample q hquantity => ?_,
    fun command payload => dispatchReply_nak hwf derived, hostReply_complete c derived, fun k => ?_⟩
  · obtain ⟨b0, b1, b2, b3, hbytes, -, hvalue⟩ := exists_littleEndian32 (derived q).1
    exact ⟨b0, b1, b2, b3, by rw [dispatchReply_update hwf, updateAckPayload, hbytes]; rfl, hvalue⟩
  · have hone : littleEndian32 0x3F800000 = [0x00, 0x00, 0x80, 0x3F] := by decide
    rw [dispatchReply_update hwf, updateAckPayload, hexample q hquantity, hone]
    rfl
  · exact ⟨(hostReply_invalid ..).trans (if_pos (.inl rfl)), rfl, (hostReply_invalid ..).trans (if_pos (by decide)),
      (hostReply_invalid ..).trans (if_neg (by decide)), (hostReply_invalid ..).trans (if_neg (by decide))⟩

end Sys2Proof.Machine
end
